-- ==== Sys2Proof/Word.lean ====
section
/-! DEFINITION. The widths the spec names: bytes, the command word, the two colour values. -/

namespace Sys2Proof

/-- Eight bits: a tile byte, a payload byte, a pixel value, a small operand (R9, R20). -/
abbrev Byte := BitVec 8

/-- The 64-bit command word (R80). -/
abbrev CmdWord := BitVec 64

/-- Color15: red [4:0], green [9:5], blue [14:10], bit 15 unused (R110). -/
abbrev Color15 := BitVec 16

/-- Color24: red [23:16], green [15:8], blue [7:0], bits [31:24] unused (R112). -/
abbrev Color24 := BitVec 32

end Sys2Proof
end

