-- ==== Sys2Proof/Syntax.lean ====
section
/-! DEFINITION. The commands, one constructor per row of the opcode map (R85), with the operands R88 gives
each. An ignored field is not an operand (R89); the payload stands beside the word, not in it (R80). -/

namespace Sys2Proof

/-- One command of the opcode map, operands decoded. Format codes and capacity selects stay the raw
8-bit field A, because their check belongs to the command (R92). -/
inductive Instr where
  /-- C15.TO24 (0x10): convert the Color15 `c`. -/
  | c15To24 (c : Color15)
  /-- C15.MAKE (0x11): red, green, blue. -/
  | c15Make (r g b : Byte)
  /-- C15.GETR (0x12). -/
  | c15GetR (c : Color15)
  /-- C15.GETG (0x13). -/
  | c15GetG (c : Color15)
  /-- C15.GETB (0x14). -/
  | c15GetB (c : Color15)
  /-- C15.SETR (0x15): new channel value, then the Color15. -/
  | c15SetR (v : Byte) (c : Color15)
  /-- C15.SETG (0x16). -/
  | c15SetG (v : Byte) (c : Color15)
  /-- C15.SETB (0x17). -/
  | c15SetB (v : Byte) (c : Color15)
  /-- C24.TO15 (0x18): convert the Color24 `d`. -/
  | c24To15 (d : Color24)
  /-- C24.MAKE (0x19): red, green, blue. -/
  | c24Make (r g b : Byte)
  /-- C24.GETR (0x1A). -/
  | c24GetR (d : Color24)
  /-- C24.GETG (0x1B). -/
  | c24GetG (d : Color24)
  /-- C24.GETB (0x1C). -/
  | c24GetB (d : Color24)
  /-- C24.SETR (0x1D): new channel value, then the Color24. -/
  | c24SetR (v : Byte) (d : Color24)
  /-- C24.SETG (0x1E). -/
  | c24SetG (v : Byte) (d : Color24)
  /-- C24.SETB (0x1F). -/
  | c24SetB (v : Byte) (d : Color24)
  /-- PAL.LOAD (0x20): capacity select. -/
  | palLoad (sel : Byte)
  /-- PAL.GET (0x21): palette index. -/
  | palGet (i : Byte)
  /-- PAL.SET (0x22): palette index and colour. -/
  | palSet (i : Byte) (c : Color15)
  /-- TILE.NEW (0x30): format code. -/
  | tileNew (f : Byte)
  /-- TILE.LOAD (0x31): format code. -/
  | tileLoad (f : Byte)
  /-- TILE.READ (0x32). -/
  | tileRead
  /-- TILE.GETPIX (0x33): x and y. -/
  | tileGetPix (x y : Byte)
  /-- TILE.SETPIX (0x34): x, y and the pixel value. -/
  | tileSetPix (x y v : Byte)
  /-- TILE.DECODE (0x35). -/
  | tileDecode
  /-- TILE.ENCODE (0x36): format code. -/
  | tileEncode (f : Byte)
  /-- PIPE.NATIVE (0x40). -/
  | pipeNative
  /-- PIPE.DISPLAY (0x41). -/
  | pipeDisplay
  /-- PIPE.DIRECT (0x42): the 3-bit palette argument. -/
  | pipeDirect (pa : BitVec 3)
deriving DecidableEq, Repr

end Sys2Proof
end

