-- ==== Sys2Proof/WellFormed.lean ====
section
/-! DEFINITION. Which commands are legal encodings (R90): the format code names one of the ten formats,
the capacity select one of the two palettes. Every other operand value is legal. -/

namespace Sys2Proof

/-- A format code of R86: 0 to 9. -/
def legalFormatCode (f : Byte) : Bool := decide (f.toNat < 10)

/-- A capacity select of R87: 0 or 1. -/
def legalSelect (sel : Byte) : Bool := decide (sel.toNat < 2)

/-- The command is none of the illegal encodings (b) and (c) of R90. -/
def Instr.wellFormed : Instr → Bool
  | .palLoad sel => legalSelect sel
  | .tileNew f => legalFormatCode f
  | .tileLoad f => legalFormatCode f
  | .tileEncode f => legalFormatCode f
  | .c15To24 _ => true
  | .c15Make _ _ _ => true
  | .c15GetR _ => true
  | .c15GetG _ => true
  | .c15GetB _ => true
  | .c15SetR _ _ => true
  | .c15SetG _ _ => true
  | .c15SetB _ _ => true
  | .c24To15 _ => true
  | .c24Make _ _ _ => true
  | .c24GetR _ => true
  | .c24GetG _ => true
  | .c24GetB _ => true
  | .c24SetR _ _ => true
  | .c24SetG _ _ => true
  | .c24SetB _ _ => true
  | .palGet _ => true
  | .palSet _ _ => true
  | .tileRead => true
  | .tileGetPix _ _ => true
  | .tileSetPix _ _ _ => true
  | .tileDecode => true
  | .pipeNative => true
  | .pipeDisplay => true
  | .pipeDirect _ => true

end Sys2Proof
end

