-- ==== Sys2Proof/Decode.lean ====
section
/-! DEFINITION. The five fields of the command word (R81), the decoder (R85, R88, R92), the encoder
(R93), and `decodeTableWord`, the decoder as the opcode table numbers its bits. -/

namespace Sys2Proof

/-- `OPC` = bits [63:56] (R81). -/
def opcField (w : CmdWord) : Byte := w.extractLsb' 56 8

/-- `A` = bits [55:48] (R81). -/
def aField (w : CmdWord) : Byte := w.extractLsb' 48 8

/-- `B` = bits [47:40] (R81). -/
def bField (w : CmdWord) : Byte := w.extractLsb' 40 8

/-- `C` = bits [39:32] (R81). -/
def cField (w : CmdWord) : Byte := w.extractLsb' 32 8

/-- `W` = bits [31:0] (R81). -/
def wField (w : CmdWord) : BitVec 32 := w.extractLsb' 0 32

/-- A Color15 operand is `W[15:0]`; `W[31:16]` is ignored (R88, R114). -/
def color15Field (w : CmdWord) : Color15 := (wField w).extractLsb' 0 16

/-- The palette argument of PIPE.DIRECT is `A[2:0]`; `A[7:3]` is ignored (R88). -/
def paletteArgField (w : CmdWord) : BitVec 3 := (aField w).extractLsb' 0 3

/-- The decoder (R92): the command is selected by `OPC` alone, its operands are read as R88 says;
an opcode outside the table of R85 decodes to nothing. -/
def decode (w : CmdWord) : Option Instr :=
  match (opcField w).toNat with
  | 0x10 => some (.c15To24 (color15Field w))
  | 0x11 => some (.c15Make (aField w) (bField w) (cField w))
  | 0x12 => some (.c15GetR (color15Field w))
  | 0x13 => some (.c15GetG (color15Field w))
  | 0x14 => some (.c15GetB (color15Field w))
  | 0x15 => some (.c15SetR (aField w) (color15Field w))
  | 0x16 => some (.c15SetG (aField w) (color15Field w))
  | 0x17 => some (.c15SetB (aField w) (color15Field w))
  | 0x18 => some (.c24To15 (wField w))
  | 0x19 => some (.c24Make (aField w) (bField w) (cField w))
  | 0x1A => some (.c24GetR (wField w))
  | 0x1B => some (.c24GetG (wField w))
  | 0x1C => some (.c24GetB (wField w))
  | 0x1D => some (.c24SetR (aField w) (wField w))
  | 0x1E => some (.c24SetG (aField w) (wField w))
  | 0x1F => some (.c24SetB (aField w) (wField w))
  | 0x20 => some (.palLoad (aField w))
  | 0x21 => some (.palGet (aField w))
  | 0x22 => some (.palSet (aField w) (color15Field w))
  | 0x30 => some (.tileNew (aField w))
  | 0x31 => some (.tileLoad (aField w))
  | 0x32 => some .tileRead
  | 0x33 => some (.tileGetPix (aField w) (bField w))
  | 0x34 => some (.tileSetPix (aField w) (bField w) (cField w))
  | 0x35 => some .tileDecode
  | 0x36 => some (.tileEncode (aField w))
  | 0x40 => some .pipeNative
  | 0x41 => some .pipeDisplay
  | 0x42 => some (.pipeDirect (paletteArgField w))
  | _ => none

/-- The opcode of a command (R85). -/
def Instr.opcode : Instr → Byte
  | .c15To24 _ => 0x10#8
  | .c15Make _ _ _ => 0x11#8
  | .c15GetR _ => 0x12#8
  | .c15GetG _ => 0x13#8
  | .c15GetB _ => 0x14#8
  | .c15SetR _ _ => 0x15#8
  | .c15SetG _ _ => 0x16#8
  | .c15SetB _ _ => 0x17#8
  | .c24To15 _ => 0x18#8
  | .c24Make _ _ _ => 0x19#8
  | .c24GetR _ => 0x1A#8
  | .c24GetG _ => 0x1B#8
  | .c24GetB _ => 0x1C#8
  | .c24SetR _ _ => 0x1D#8
  | .c24SetG _ _ => 0x1E#8
  | .c24SetB _ _ => 0x1F#8
  | .palLoad _ => 0x20#8
  | .palGet _ => 0x21#8
  | .palSet _ _ => 0x22#8
  | .tileNew _ => 0x30#8
  | .tileLoad _ => 0x31#8
  | .tileRead => 0x32#8
  | .tileGetPix _ _ => 0x33#8
  | .tileSetPix _ _ _ => 0x34#8
  | .tileDecode => 0x35#8
  | .tileEncode _ => 0x36#8
  | .pipeNative => 0x40#8
  | .pipeDisplay => 0x41#8
  | .pipeDirect _ => 0x42#8

/-- A command word from its five fields, high field first (R81). -/
def mkWord (opc a b c : Byte) (w : BitVec 32) : CmdWord := opc ++ (a ++ (b ++ (c ++ w)))

/-- A Color15 operand in field W; the assembler writes zero in the ignored bits (R89). -/
def color15Operand (c : Color15) : BitVec 32 := c.setWidth 32

/-- The encoder: the word the assembler writes, zero in every ignored bit (R88, R89, R93). -/
def encode (i : Instr) : CmdWord :=
  match i with
  | .c15To24 c => mkWord i.opcode 0 0 0 (color15Operand c)
  | .c15Make r g b => mkWord i.opcode r g b 0
  | .c15GetR c => mkWord i.opcode 0 0 0 (color15Operand c)
  | .c15GetG c => mkWord i.opcode 0 0 0 (color15Operand c)
  | .c15GetB c => mkWord i.opcode 0 0 0 (color15Operand c)
  | .c15SetR v c => mkWord i.opcode v 0 0 (color15Operand c)
  | .c15SetG v c => mkWord i.opcode v 0 0 (color15Operand c)
  | .c15SetB v c => mkWord i.opcode v 0 0 (color15Operand c)
  | .c24To15 d => mkWord i.opcode 0 0 0 d
  | .c24Make r g b => mkWord i.opcode r g b 0
  | .c24GetR d => mkWord i.opcode 0 0 0 d
  | .c24GetG d => mkWord i.opcode 0 0 0 d
  | .c24GetB d => mkWord i.opcode 0 0 0 d
  | .c24SetR v d => mkWord i.opcode v 0 0 d
  | .c24SetG v d => mkWord i.opcode v 0 0 d
  | .c24SetB v d => mkWord i.opcode v 0 0 d
  | .palLoad sel => mkWord i.opcode sel 0 0 0
  | .palGet k => mkWord i.opcode k 0 0 0
  | .palSet k c => mkWord i.opcode k 0 0 (color15Operand c)
  | .tileNew f => mkWord i.opcode f 0 0 0
  | .tileLoad f => mkWord i.opcode f 0 0 0
  | .tileRead => mkWord i.opcode 0 0 0 0
  | .tileGetPix x y => mkWord i.opcode x y 0 0
  | .tileSetPix x y v => mkWord i.opcode x y v 0
  | .tileDecode => mkWord i.opcode 0 0 0 0
  | .tileEncode f => mkWord i.opcode f 0 0 0
  | .pipeNative => mkWord i.opcode 0 0 0 0
  | .pipeDisplay => mkWord i.opcode 0 0 0 0
  | .pipeDirect pa => mkWord i.opcode (pa.setWidth 8) 0 0 0

/-- The command word whose `nbits` low bits are `w`'s and whose other bits are 0. The command word is
presented whole, as one 64-bit number, so it has no byte order (R80, R81). Log entry 17. -/
def tableWord (nbits w : Nat) : CmdWord := BitVec.ofNat 64 (w % 2 ^ nbits)

/-- The command the decoder reads from a word given as the opcode table numbers its bits. -/
def decodeTableWord (nbits w : Nat) : Option Instr := decode (tableWord nbits w)

end Sys2Proof
end

