-- ==== Sys2Proof/Config.lean ====
section
/-! DEFINITION. What the hardware instance fixes, and the one free value the spec leaves open. -/

namespace Sys2Proof

/-- The two admissible values of `P_8BPP_PLANAR_LIMIT` (R9, R174, D39). -/
inductive PlanarLimit where
  /-- 16: the value of this hardware. -/
  | sixteen
  /-- 256: no rejection, only for a consumer that explicitly wants the format unified. -/
  | unified
deriving DecidableEq, Repr

/-- A hardware instance's fixed properties; no command reads or writes them (R26). -/
structure Config where
  /-- The smallest pixel value the 8bpp-planar format rejects. -/
  planarLimit : PlanarLimit
deriving DecidableEq, Repr

/-- This hardware (R9: "value this hardware takes"). Log entry 5. -/
def config : Config := { planarLimit := .sixteen }

/-- The value that the `n`-th read of a never-written palette entry gives (R34, U1: any value, a
fresh draw per read). No body that a proof could use: nothing constrains it. Log entry 3. -/
opaque Config.freeColor : Nat → Color15

end Sys2Proof
end

