-- ==== Sys2Proof/Machine/State.lean ====
section
/-! DEFINITION. The machine's state (R20), the inputs and responses that cross its interface (R80, R83), the
reasons a step can stop (none does), and the state after reset (R33, R34). -/

namespace Sys2Proof.Machine

/-- The ten tile formats, in the order of their codes 0 to 9 (R86, R160). -/
inductive TileFormat where
  /-- Code 0, 1bpp. -/
  | bpp1
  /-- Code 1, 2bpp planar. -/
  | bpp2Planar
  /-- Code 2, 2bpp intertwined. -/
  | bpp2Inter
  /-- Code 3, 3bpp planar. -/
  | bpp3Planar
  /-- Code 4, 3bpp intertwined. -/
  | bpp3Inter
  /-- Code 5, 4bpp planar. -/
  | bpp4Planar
  /-- Code 6, 4bpp intertwined. -/
  | bpp4Inter
  /-- Code 7, 8bpp planar. -/
  | bpp8Planar
  /-- Code 8, 8bpp intertwined. -/
  | bpp8Inter
  /-- Code 9, Mode7. -/
  | mode7
deriving DecidableEq, Repr

/-- The two palette capacities (R27, R87). -/
inductive PalSize where
  /-- Select 0, 16 entries. -/
  | pal16
  /-- Select 1, 256 entries. -/
  | pal256
deriving DecidableEq, Repr

/-- The error kinds (R241). -/
inductive ErrorKind where
  /-- Code 1. -/
  | lengthMismatch
  /-- Code 2. -/
  | outOfBounds
  /-- Code 3. -/
  | invalidValue
  /-- Code 4. -/
  | invalidIndex
  /-- Code 7, the spec's own. -/
  | illegalCommand
deriving DecidableEq, Repr

/-- What a failing command reports: its kind and the two information fields (R242). -/
structure CmdError where
  kind : ErrorKind
  e0 : BitVec 16
  e1 : BitVec 16
deriving DecidableEq, Repr

/-- An output sequence DOUT. Its element width is fixed per command (R84), and its elements are values
without a byte order (R55). -/
inductive Dout where
  /-- No element. -/
  | empty
  /-- 8-bit elements: TILE.READ, TILE.DECODE. -/
  | bytes (es : List Byte)
  /-- 16-bit elements: PIPE.NATIVE, PIPE.DIRECT. -/
  | color15s (es : List Color15)
  /-- 32-bit elements: PIPE.DISPLAY. -/
  | color24s (es : List Color24)
deriving DecidableEq, Repr

/-- A response, field by field as R83 lays it out. -/
structure Response where
  ok : Bool
  kind : BitVec 3
  e0 : BitVec 16
  e1 : BitVec 16
  w : BitVec 32
  dout : Dout
deriving DecidableEq, Repr

/-- An input payload DIN. Its length fits `LEN_W` = 16 bits: a longer one cannot be presented (R80, D8). -/
structure Payload where
  bytes : List Byte
  presentable : bytes.length < 65536
deriving DecidableEq, Repr

/-- The empty payload (R80). -/
def Payload.none : Payload := { bytes := [], presentable := by decide }

/-- A command: the word and the payload beside it (R80). -/
structure Command where
  word : CmdWord
  din : Payload
deriving DecidableEq, Repr

/-- What the outside world can do to the block: present a command (R261) or raise `RESET` (R280). -/
inductive Input where
  | command (c : Command)
  | reset
deriving DecidableEq, Repr

/-- The tile bytes `T`: (offset, byte) pairs, offsets strictly rising, no byte 0x00 listed. An offset
that is not listed reads as 0x00, the reset content R33 gives. Log entry 6. -/
abbrev Memory := List Host.Cell

/-- The palette entries `P`: (index, colour) pairs, indices strictly rising. An index that is not
listed has not been written since reset, and its value is unspecified (R34). Log entry 3. -/
abbrev Palette := List (Nat × Color15)

/-- Why a step stops with a fault. There is no constructor: an error of this block is a response, "not a
fault that ends it" (R240), so no step raises a fault (safe: nothing of the spec is cut off). Log entry 26. -/
inductive Fault where
deriving DecidableEq, Repr

/-- Why a command has no meaning. -/
inductive Refusal where
  /-- Raised only by an arm of `exec` whose command has no meaning yet (safe: claims say nothing of it).
  No arm does: all twenty-nine commands have their meaning. -/
  | notModelled (mnemonic : String)
deriving DecidableEq, Repr

/-- The whole state. The first four fields are the spec's (R20); the last three are the MODEL's own,
because a step of the fixed interface takes nothing but the state. -/
structure State where
  /-- `tile_fmt`, the format of the current tile (R23). -/
  tileFmt : TileFormat
  /-- `T`, the bytes of the current tile (R21). -/
  tile : Memory
  /-- `pal_size`, the capacity select of the current palette (R27). -/
  palSize : PalSize
  /-- `P`, the entries of the current palette written since reset (R28, R34). -/
  pal : Palette
  /-- What the outside world does next, in order; the head is at the port now (R80, R262). Log entry 1. -/
  inputs : List Input
  /-- The responses produced so far, oldest first (R291). Written, never read (R25). Log entry 2. -/
  responses : List Response
  /-- How many free values the reads of unwritten palette entries have drawn (R34, U1). Log entry 3. -/
  draws : Nat
deriving DecidableEq, Repr

/-- The state right after `RESET`: the zero 1bpp tile (R33), 16 palette entries of which none is
written (R34); nothing presented, nothing answered, nothing drawn (log entries 1, 2, 3). -/
def State.reset : State :=
  { tileFmt := .bpp1
    tile := []
    palSize := .pal16
    pal := []
    inputs := []
    responses := []
    draws := 0 }

end Sys2Proof.Machine
end

