-- ==== Sys2Proof/Machine/Flags.lean ====
section
/-! DEFINITION. The block has no flags (R25). What a command reports of its outcome is the status part of its
response, computed here: ok, kind, e0, e1 (R83, R241). -/

namespace Sys2Proof.Machine

/-- The 3-bit code of an error kind (R241). -/
def ErrorKind.code : ErrorKind → BitVec 3
  | .lengthMismatch => 1#3
  | .outOfBounds => 2#3
  | .invalidValue => 3#3
  | .invalidIndex => 4#3
  | .illegalCommand => 7#3

/-- The response of a command that succeeds: ok = 1, no error fields, its result word and its output
sequence (R83). -/
def Response.success (w : BitVec 32) (d : Dout) : Response :=
  { ok := true, kind := 0#3, e0 := 0#16, e1 := 0#16, w := w, dout := d }

/-- The response of a command that fails: ok = 0, the kind's code and the information fields, a zero
result word, no output (R83). -/
def Response.failure (e : CmdError) : Response :=
  { ok := false, kind := e.kind.code, e0 := e.e0, e1 := e.e1, w := 0#32, dout := .empty }

end Sys2Proof.Machine
end

