-- ==== Sys2Proof/Machine/Ops.lean ====
section
/-! DEFINITION. The named operations over the tile bytes, the palette entries and the interface; finishing
a command (`return`) and failing one (`raise`) as R11 and R250 describe them. -/

namespace Sys2Proof.Machine

/-! ### Sparse cells, shared by the tile bytes and the palette entries -/

/-- The value listed at key `a`. -/
def Cells.find {α : Type} : List (Nat × α) → Nat → Option α
  | [], _ => none
  | c :: cs, a => if c.1 = a then some c.2 else Cells.find cs a

/-- List `v` at key `a`, in rising order of keys, replacing what was listed there. -/
def Cells.put {α : Type} (a : Nat) (v : α) : List (Nat × α) → List (Nat × α)
  | [] => [(a, v)]
  | c :: cs =>
    if c.1 = a then (a, v) :: cs
    else if a < c.1 then (a, v) :: c :: cs
    else c :: Cells.put a v cs

/-- Take key `a` off the list. -/
def Cells.erase {α : Type} (a : Nat) : List (Nat × α) → List (Nat × α)
  | [] => []
  | c :: cs => if c.1 = a then Cells.erase a cs else c :: Cells.erase a cs

/-- The keys rise strictly. -/
def Cells.sorted {α : Type} : List (Nat × α) → Bool
  | [] => true
  | c :: cs => cs.all (fun d => decide (c.1 < d.1)) && Cells.sorted cs

/-- Every key is below `n`. -/
def Cells.below {α : Type} (n : Nat) (m : List (Nat × α)) : Bool :=
  m.all (fun c => decide (c.1 < n))

/-! ### The tile bytes -/

/-- What an offset that is not listed reads as: 0x00 (R33). -/
def Memory.unlisted : Byte := 0x00#8

/-- The canonical form: offsets strictly rising, no entry equal to what an unlisted offset reads as. -/
def Memory.wf (m : Memory) : Bool :=
  Cells.sorted m && m.all (fun c => decide (c.2 ≠ Memory.unlisted))

/-- `T[k]` (R11). -/
def Memory.read (m : Memory) (k : Nat) : Byte := (Cells.find m k).getD Memory.unlisted

/-- `T[k] <- v` (R11), in the canonical form. -/
def Memory.write (m : Memory) (k : Nat) (v : Byte) : Memory :=
  if v = Memory.unlisted then Cells.erase k m else Cells.put k v m

/-- All bytes 0x00: the tile TILE.NEW makes (R191) and `RESET` leaves (R33). -/
def Memory.zero : Memory := []

/-- The bytes `bs` at offsets `k`, `k+1`, … and 0x00 elsewhere. -/
def Memory.ofBytesFrom (k : Nat) : List Byte → Memory
  | [] => Memory.zero
  | b :: bs => Memory.write (Memory.ofBytesFrom (k + 1) bs) k b

/-- A payload as tile bytes, verbatim, in offset order (R51). -/
def Memory.ofBytes (bs : List Byte) : Memory := Memory.ofBytesFrom 0 bs

/-- The `n` bytes at offsets `0`, …, `n-1`, in offset order (R51). -/
def Memory.toBytes (m : Memory) (n : Nat) : List Byte := (List.range n).map m.read

/-! ### The palette entries -/

/-- The canonical form: indices strictly rising. -/
def Palette.wf (p : Palette) : Bool := Cells.sorted p

/-- `P[i]` where it has been written since reset; `none` where its value is unspecified (R34). -/
def Palette.entry (p : Palette) (i : Nat) : Option Color15 := Cells.find p i

/-- `P[i] <- c`, all 16 bits (R28, R143). -/
def Palette.write (p : Palette) (i : Nat) (c : Color15) : Palette := Cells.put i c p

/-- The colours `cs` at indices `i`, `i+1`, …. -/
def Palette.ofColorsFrom (i : Nat) : List Color15 → Palette
  | [] => []
  | c :: cs => (i, c) :: Palette.ofColorsFrom (i + 1) cs

/-- A palette from its colours: the first is entry 0 (R28). -/
def Palette.ofColors (cs : List Color15) : Palette := Palette.ofColorsFrom 0 cs

/-- One read of `P[i]`, with the draw counter before and after: the entry where it has been written, else
a fresh free value (R34, U1). Log entry 3. -/
def Palette.read (p : Palette) (n : Nat) (i : Nat) : Color15 × Nat :=
  match p.entry i with
  | some c => (c, n)
  | none => (Config.freeColor n, n + 1)

/-- The reads of `P` at each index of a list, in order (R221), the draw counter carried along. -/
def Palette.readAll (p : Palette) (n : Nat) : List Byte → List Color15 × Nat
  | [] => ([], n)
  | i :: is =>
    let (c, n₁) := p.read n i.toNat
    let (cs, n₂) := Palette.readAll p n₁ is
    (c :: cs, n₂)

/-! ### Updates of the state -/

/-- Replace the current tile, format and bytes together (R22, R190). -/
def State.putTile (s : State) (f : TileFormat) (m : Memory) : State :=
  { s with tileFmt := f, tile := m }

/-- Replace the current palette, capacity and entries together (R141). -/
def State.putPalette (s : State) (z : PalSize) (p : Palette) : State :=
  { s with palSize := z, pal := p }

/-- Write palette entry `i` (R143). -/
def State.putEntry (s : State) (i : Nat) (c : Color15) : State :=
  { s with pal := s.pal.write i c }

/-- Advance the counter of free values. -/
def State.putDraws (s : State) (n : Nat) : State :=
  { s with draws := n }

/-- Answer the command at the port: it leaves the port, its one response is produced (R60, R83). -/
def State.respond (s : State) (r : Response) : State :=
  { s with inputs := s.inputs.tail, responses := s.responses ++ [r] }

/-- The `RESET` event (R280): the four items of state take their values of R33 and R34; no response.
What the outside world did and saw, and the count of free values, are not the block's to reset. Log entry 8. -/
def State.takeReset (s : State) : State :=
  { s with
    tileFmt := State.reset.tileFmt
    tile := State.reset.tile
    palSize := State.reset.palSize
    pal := State.reset.pal
    inputs := s.inputs.tail }

/-! ### How a command ends -/

/-- `return` (R11): the command finishes with status OK in the state it leaves. -/
def State.reply (s : State) (w : BitVec 32) (d : Dout) : Host.Outcome State Fault Refusal :=
  .next (s.respond (Response.success w d))

/-- `raise` (R11, R250): taking an exception, in this block, is one response with the error, in the state
the command FOUND. Nothing is saved and control goes nowhere, so there is no return from it (R251). -/
def State.raise (s : State) (e : CmdError) : Host.Outcome State Fault Refusal :=
  .next (s.respond (Response.failure e))

end Sys2Proof.Machine
end

