-- ==== Sys2Proof/Machine/Formats.lean ====
section
/-! DEFINITION. The ten tile formats: byte counts and depths (R160), address functions (R161 to R171),
pixel functions (R172, R173), value limits (R174), the colormap of a tile (R196). -/

namespace Sys2Proof.Machine

/-- `BYTES(f)` (R160). -/
def TileFormat.bytes : TileFormat → Nat
  | .bpp1 => 8
  | .bpp2Planar => 16
  | .bpp2Inter => 16
  | .bpp3Planar => 24
  | .bpp3Inter => 24
  | .bpp4Planar => 32
  | .bpp4Inter => 32
  | .bpp8Planar => 64
  | .bpp8Inter => 64
  | .mode7 => 64

/-- `DEPTH(f)` (R160). -/
def TileFormat.depth : TileFormat → Nat
  | .bpp1 => 1
  | .bpp2Planar => 2
  | .bpp2Inter => 2
  | .bpp3Planar => 3
  | .bpp3Inter => 3
  | .bpp4Planar => 4
  | .bpp4Inter => 4
  | .bpp8Planar => 8
  | .bpp8Inter => 8
  | .mode7 => 8

/-- The value of `P_8BPP_PLANAR_LIMIT` (R9). -/
def planarLimitValue : PlanarLimit → Nat
  | .sixteen => 16
  | .unified => 256

/-- `LIMIT(f)` (R174): the smallest pixel value that is refused, if any is. -/
def TileFormat.limit (cfg : Config) : TileFormat → Option Nat
  | .bpp1 => some 2
  | .bpp2Planar => some 4
  | .bpp2Inter => some 4
  | .bpp3Planar => some 8
  | .bpp3Inter => some 8
  | .bpp4Planar => some 16
  | .bpp4Inter => some 16
  | .bpp8Planar => some (planarLimitValue cfg.planarLimit)
  | .bpp8Inter => none
  | .mode7 => none

/-- How the plane bytes of a bit-plane format are laid out (R161, R166). -/
inductive Layout where
  /-- Plane `p` occupies bytes `8p` to `8p+7`. -/
  | planar
  /-- Planes `2k` and `2k+1` share bytes `16k` to `16k+15`, alternating per row. -/
  | intertwined
  /-- 3bpp intertwined: planes 0 and 1 intertwined, plane 2 planar at offset 16. -/
  | mixed
deriving DecidableEq, Repr

/-- The layout of a bit-plane format (R162 to R170); Mode7 has no planes (R171). -/
def TileFormat.layout : TileFormat → Option Layout
  | .bpp1 => some .planar
  | .bpp2Planar => some .planar
  | .bpp2Inter => some .intertwined
  | .bpp3Planar => some .planar
  | .bpp3Inter => some .mixed
  | .bpp4Planar => some .planar
  | .bpp4Inter => some .intertwined
  | .bpp8Planar => some .planar
  | .bpp8Inter => some .intertwined
  | .mode7 => none

/-- `planar(p, y)` (R161). -/
def planarAddr (p y : Nat) : Nat := 8 * p + y

/-- `intertwined(p, y)` (R161). -/
def intertwinedAddr (p y : Nat) : Nat := 16 * (p / 2) + 2 * y + p % 2

/-- `plane_addr`: the offset of the byte that holds plane `p` of row `y` (R161, R166). -/
def planeAddr (l : Layout) (p y : Nat) : Nat :=
  match l with
  | .planar => planarAddr p y
  | .intertwined => intertwinedAddr p y
  | .mixed => if p < 2 then intertwinedAddr p y else planarAddr p y

/-- `m7_addr(x, y)`: the offset of a pixel's byte in Mode7 (R171). -/
def mode7Addr (x y : Nat) : Nat := 8 * y + x

/-- `mask = 1 << (7 - x)`: pixel `x` of a plane byte (R52, R172). -/
def pixelMask (x : Nat) : Byte := 1#8 <<< (7 - x)

/-- The decoding loop over planes 0 to `n-1` (R172). -/
def getPlanes (l : Layout) (m : Memory) (x y : Nat) : Nat → Byte
  | 0 => 0#8
  | p + 1 =>
    getPlanes l m x y p |||
      (((m.read (planeAddr l p y) &&& pixelMask x) >>> (7 - x)) <<< p)

/-- `get_pixel(f, buf, x, y)` (R172), for `x` and `y` below 8. -/
def getPixel (f : TileFormat) (m : Memory) (x y : Nat) : Byte :=
  match f.layout with
  | none => m.read (mode7Addr x y)
  | some l => getPlanes l m x y f.depth

/-- A plane byte with the pixel's bit cleared, then set to bit `p` of `v` (R173). -/
def setPlaneBit (b : Byte) (x p : Nat) (v : Byte) : Byte :=
  (b &&& ~~~ pixelMask x) ||| (((v >>> p) &&& 1#8) <<< (7 - x))

/-- The encoding loop over planes 0 to `n-1` (R173). -/
def setPlanes (l : Layout) (m : Memory) (x y : Nat) (v : Byte) : Nat → Memory
  | 0 => m
  | p + 1 =>
    let m' := setPlanes l m x y v p
    m'.write (planeAddr l p y) (setPlaneBit (m'.read (planeAddr l p y)) x p v)

/-- `set_pixel(f, buf, x, y, v)` (R173), for `x` and `y` below 8. -/
def setPixel (f : TileFormat) (m : Memory) (x y : Nat) (v : Byte) : Memory :=
  match f.layout with
  | none => m.write (mode7Addr x y) v
  | some l => setPlanes l m x y v f.depth

/-- `colormap(f, buf)` (R196): the 64 pixels in row-major order (R54). -/
def colormap (f : TileFormat) (m : Memory) : List Byte :=
  (List.range 64).map (fun i => getPixel f m (i % 8) (i / 8))

end Sys2Proof.Machine
end

