-- ==== Sys2Proof/Machine/Operands.lean ====
section
/-! DEFINITION. The operand forms of R88 (format code, capacity select, payload) and the checks the commands
make of their operands, each with the error it gives (R242, R248). -/

namespace Sys2Proof.Machine

/-- The format a code names (R86); codes 10 to 255 name none (R90). -/
def TileFormat.ofCode (f : Byte) : Option TileFormat :=
  match f.toNat with
  | 0 => some .bpp1
  | 1 => some .bpp2Planar
  | 2 => some .bpp2Inter
  | 3 => some .bpp3Planar
  | 4 => some .bpp3Inter
  | 5 => some .bpp4Planar
  | 6 => some .bpp4Inter
  | 7 => some .bpp8Planar
  | 8 => some .bpp8Inter
  | 9 => some .mode7
  | _ => none

/-- The capacity a select names (R87); selects 2 to 255 name none (R90). -/
def PalSize.ofSelect (sel : Byte) : Option PalSize :=
  match sel.toNat with
  | 0 => some .pal16
  | 1 => some .pal256
  | _ => none

/-- `CAP(s)` (R27, R140). -/
def PalSize.cap : PalSize → Nat
  | .pal16 => 16
  | .pal256 => 256

/-- DIN: the payload of the command at the port, empty where it has none (R30, R80). -/
def State.din (s : State) : List Byte :=
  match s.inputs with
  | .command c :: _ => c.din.bytes
  | _ => []

/-- The colours of a palette payload: byte pairs in ascending offset order, low byte first (R50, R141). -/
def colorsOf : List Byte → List Color15
  | lo :: hi :: bs => (hi ++ lo) :: colorsOf bs
  | _ => []

/-- A number as an error information field, `LEN_W` = 16 bits (R242). -/
def infoField (n : Nat) : BitVec 16 := BitVec.ofNat 16 n

/-- ILLEGAL_COMMAND: the opcode and field A (R90, R242). Log entry 4. -/
def illegalCommand (opc a : Byte) : CmdError :=
  { kind := .illegalCommand, e0 := opc.setWidth 16, e1 := a.setWidth 16 }

/-- The exact-length check: expected and actual sizes (R57, R242, R243). -/
def lengthError (expected actual : Nat) : Option CmdError :=
  if actual = expected then none
  else some { kind := .lengthMismatch, e0 := infoField expected, e1 := infoField actual }

/-- The bounds check of one coordinate: the coordinate and the limit 8 (R242, R244). -/
def boundsError (c : Nat) : Option CmdError :=
  if 8 ≤ c then some { kind := .outOfBounds, e0 := infoField c, e1 := infoField 8 } else none

/-- The value check against `LIMIT(f)`: the value and the limit (R242, R245). -/
def valueError (lim : Option Nat) (v : Byte) : Option CmdError :=
  match lim with
  | none => none
  | some n =>
    if n ≤ v.toNat then some { kind := .invalidValue, e0 := v.setWidth 16, e1 := infoField n } else none

/-- The palette index check: the index and 16, only with 16 entries (R242, R246). -/
def indexError (z : PalSize) (i : Byte) : Option CmdError :=
  match z with
  | .pal256 => none
  | .pal16 =>
    if 16 ≤ i.toNat then some { kind := .invalidIndex, e0 := i.setWidth 16, e1 := infoField 16 } else none

/-- The bounds checks of a pixel, x before y (R248). Log entry 12. -/
def coordError (x y : Nat) : Option CmdError := (boundsError x).or (boundsError y)

/-- The checks of a pixel write: x, then y, then the value (R195, R248). -/
def pixelError (cfg : Config) (f : TileFormat) (x y : Nat) (v : Byte) : Option CmdError :=
  (coordError x y).or (valueError (f.limit cfg) v)

/-- The first element of a colormap whose index check fails, in ascending order (R221, R248). -/
def firstIndexError (z : PalSize) : List Byte → Option CmdError
  | [] => none
  | v :: vs => (indexError z v).or (firstIndexError z vs)

end Sys2Proof.Machine
end

