-- ==== Sys2Proof/Machine/Color.lean ====
section
/-! DEFINITION. color_channel_shifter: the sixteen colour commands (R110 to R132). They read no state, write
no state and never fail. -/

namespace Sys2Proof.Machine

/-! ### Channels and conversions -/

/-- Red of a Color15, bits [4:0] (R110). -/
def red15 (c : Color15) : BitVec 5 := c.extractLsb' 0 5

/-- Green of a Color15, bits [9:5] (R110). -/
def green15 (c : Color15) : BitVec 5 := c.extractLsb' 5 5

/-- Blue of a Color15, bits [14:10] (R110). -/
def blue15 (c : Color15) : BitVec 5 := c.extractLsb' 10 5

/-- Red of a Color24, bits [23:16] (R112). -/
def red24 (d : Color24) : Byte := d.extractLsb' 16 8

/-- Green of a Color24, bits [15:8] (R112). -/
def green24 (d : Color24) : Byte := d.extractLsb' 8 8

/-- Blue of a Color24, bits [7:0] (R112). -/
def blue24 (d : Color24) : Byte := d.extractLsb' 0 8

/-- A Color15 from its channels, bit 15 zero (R111, R116). -/
def pack15 (r g b : BitVec 5) : Color15 := 0#1 ++ (b ++ (g ++ r))

/-- A Color24 from its channels, bits [31:24] zero (R113, R124). -/
def pack24 (r g b : Byte) : Color24 := 0#8 ++ (r ++ (g ++ b))

/-- A channel operand masked to the 5 bits of a Color15 channel, silently (R116, R120). -/
def mask5 (v : Byte) : BitVec 5 := v.extractLsb' 0 5

/-- A 5-bit channel shifted left by 3, 8 bits wide (R115). -/
def widen (v : BitVec 5) : Byte := v ++ 0#3

/-- An 8-bit channel shifted right by 3, 5 bits wide (R123). -/
def narrow (v : Byte) : BitVec 5 := v.extractLsb' 3 5

/-- `to24(c)` (R115). -/
def to24 (c : Color15) : Color24 := pack24 (widen (red15 c)) (widen (green15 c)) (widen (blue15 c))

/-- `to15(d)` (R123). -/
def to15 (d : Color24) : Color15 := pack15 (narrow (red24 d)) (narrow (green24 d)) (narrow (blue24 d))

/-- `make15(r, g, b)` (R116). Log entry 18. -/
def make15 (r g b : Byte) : Color15 := pack15 (mask5 r) (mask5 g) (mask5 b)

/-- A Color15 result: `rsp.w[15:0]`, the rest zero (R84, R114). -/
def reply15 (s : State) (c : Color15) : Host.Outcome State Fault Refusal :=
  s.reply (c.setWidth 32) .empty

/-- A Color24 result: all of `rsp.w` (R84, R114). -/
def reply24 (s : State) (d : Color24) : Host.Outcome State Fault Refusal :=
  s.reply d .empty

/-! ### Color15 commands -/

/-- C15.TO24 (R115). -/
def execC15To24 (c : Color15) (s : State) : Host.Outcome State Fault Refusal :=
  reply24 s (to24 c)

/-- C15.MAKE (R116). -/
def execC15Make (r g b : Byte) (s : State) : Host.Outcome State Fault Refusal :=
  reply15 s (make15 r g b)

/-- C15.GETR (R117). -/
def execC15GetR (c : Color15) (s : State) : Host.Outcome State Fault Refusal :=
  s.reply ((red15 c).setWidth 32) .empty

/-- C15.GETG (R118). -/
def execC15GetG (c : Color15) (s : State) : Host.Outcome State Fault Refusal :=
  s.reply ((green15 c).setWidth 32) .empty

/-- C15.GETB (R119). -/
def execC15GetB (c : Color15) (s : State) : Host.Outcome State Fault Refusal :=
  s.reply ((blue15 c).setWidth 32) .empty

/-- C15.SETR (R120). -/
def execC15SetR (v : Byte) (c : Color15) (s : State) : Host.Outcome State Fault Refusal :=
  reply15 s ((c &&& 0xFFE0#16) ||| (mask5 v).setWidth 16)

/-- C15.SETG (R121). -/
def execC15SetG (v : Byte) (c : Color15) (s : State) : Host.Outcome State Fault Refusal :=
  reply15 s ((c &&& 0xFC1F#16) ||| ((mask5 v).setWidth 16 <<< 5))

/-- C15.SETB (R122). -/
def execC15SetB (v : Byte) (c : Color15) (s : State) : Host.Outcome State Fault Refusal :=
  reply15 s ((c &&& 0x83FF#16) ||| ((mask5 v).setWidth 16 <<< 10))

/-! ### Color24 commands -/

/-- C24.TO15 (R123). -/
def execC24To15 (d : Color24) (s : State) : Host.Outcome State Fault Refusal :=
  reply15 s (to15 d)

/-- C24.MAKE (R124). -/
def execC24Make (r g b : Byte) (s : State) : Host.Outcome State Fault Refusal :=
  reply24 s (pack24 r g b)

/-- C24.GETR (R125). -/
def execC24GetR (d : Color24) (s : State) : Host.Outcome State Fault Refusal :=
  s.reply ((red24 d).setWidth 32) .empty

/-- C24.GETG (R126). -/
def execC24GetG (d : Color24) (s : State) : Host.Outcome State Fault Refusal :=
  s.reply ((green24 d).setWidth 32) .empty

/-- C24.GETB (R127). -/
def execC24GetB (d : Color24) (s : State) : Host.Outcome State Fault Refusal :=
  s.reply ((blue24 d).setWidth 32) .empty

/-- C24.SETR (R128). -/
def execC24SetR (v : Byte) (d : Color24) (s : State) : Host.Outcome State Fault Refusal :=
  reply24 s ((d &&& 0xFF00FFFF#32) ||| (v.setWidth 32 <<< 16))

/-- C24.SETG (R129). -/
def execC24SetG (v : Byte) (d : Color24) (s : State) : Host.Outcome State Fault Refusal :=
  reply24 s ((d &&& 0xFFFF00FF#32) ||| (v.setWidth 32 <<< 8))

/-- C24.SETB (R130). -/
def execC24SetB (v : Byte) (d : Color24) (s : State) : Host.Outcome State Fault Refusal :=
  reply24 s ((d &&& 0xFFFFFF00#32) ||| v.setWidth 32)

end Sys2Proof.Machine
end

