-- ==== Sys2Proof/Machine/PaletteRam.lean ====
section
/-! DEFINITION. palette_ram_lookup: the three palette commands (R140 to R144). -/

namespace Sys2Proof.Machine

/-- PAL.LOAD (R141): the select check, the length check, then every entry at once. -/
def execPalLoad (sel : Byte) (s : State) : Host.Outcome State Fault Refusal :=
  match PalSize.ofSelect sel with
  | none => s.raise (illegalCommand (Instr.palLoad sel).opcode sel)
  | some z =>
    match lengthError (2 * z.cap) s.din.length with
    | some e => s.raise e
    | none => (s.putPalette z (Palette.ofColors (colorsOf s.din))).reply 0 .empty

/-- PAL.GET (R142): the entry, all 16 bits; a fresh free value where none was written (R34). -/
def execPalGet (i : Byte) (s : State) : Host.Outcome State Fault Refusal :=
  match indexError s.palSize i with
  | some e => s.raise e
  | none =>
    let (c, n) := s.pal.read s.draws i.toNat
    reply15 (s.putDraws n) c

/-- PAL.SET (R143): all 16 bits of the colour, unchecked. -/
def execPalSet (i : Byte) (c : Color15) (s : State) : Host.Outcome State Fault Refusal :=
  match indexError s.palSize i with
  | some e => s.raise e
  | none => (s.putEntry i.toNat c).reply 0 .empty

end Sys2Proof.Machine
end

