-- ==== Sys2Proof/Machine/Pipeline.lean ====
section
/-! DEFINITION. pixel_pipeline_composition: the three pipeline commands (R220 to R224). -/

namespace Sys2Proof.Machine

/-- PIPE.NATIVE (R221): every index checked, then one palette read per pixel, in order. -/
def execPipeNative (s : State) : Host.Outcome State Fault Refusal :=
  let cm := colormap s.tileFmt s.tile
  match firstIndexError s.palSize cm with
  | some e => s.raise e
  | none =>
    let (cs, n) := s.pal.readAll s.draws cm
    (s.putDraws n).reply 0 (.color15s cs)

/-- PIPE.DISPLAY (R222): as PIPE.NATIVE, each colour converted by `to24`. -/
def execPipeDisplay (s : State) : Host.Outcome State Fault Refusal :=
  let cm := colormap s.tileFmt s.tile
  match firstIndexError s.palSize cm with
  | some e => s.raise e
  | none =>
    let (cs, n) := s.pal.readAll s.draws cm
    (s.putDraws n).reply 0 (.color24s (cs.map to24))

/-- One direct-colour channel: the data bits or the fixed bit, in a 5-bit field (R224). -/
def directChannel (data : Byte) (fixed : Byte) : BitVec 5 := (data ||| fixed).extractLsb' 0 5

/-- `direct15(c, pa)` (R224), the document's formulas literal by literal (R5). Log entry 19. -/
def direct15 (c : Byte) (pa : BitVec 3) : Color15 :=
  let arg := pa.setWidth 8
  let blue := directChannel ((c &&& 0xC0#8) >>> 4) ((arg >>> 2) &&& 1#8)
  let green := directChannel ((c &&& 0x38#8) >>> 2) ((arg >>> 1) &&& 1#8)
  let red := directChannel ((c &&& 0x07#8) <<< 1) (arg &&& 1#8)
  pack15 red green blue

/-- PIPE.DIRECT (R223): no palette, no error. -/
def execPipeDirect (pa : BitVec 3) (s : State) : Host.Outcome State Fault Refusal :=
  s.reply 0 (.color15s ((colormap s.tileFmt s.tile).map (fun c => direct15 c pa)))

end Sys2Proof.Machine
end

