-- ==== Sys2Proof/Machine/Tile.lean ====
section
/-! DEFINITION. tile_bitplane_decoder: the seven tile commands (R190 to R198). -/

namespace Sys2Proof.Machine

/-- TILE.NEW (R191): the zero tile of the format. -/
def execTileNew (f : Byte) (s : State) : Host.Outcome State Fault Refusal :=
  match TileFormat.ofCode f with
  | none => s.raise (illegalCommand (Instr.tileNew f).opcode f)
  | some fmt => (s.putTile fmt Memory.zero).reply 0 .empty

/-- TILE.LOAD (R192): the payload, verbatim, where its length is exact. -/
def execTileLoad (f : Byte) (s : State) : Host.Outcome State Fault Refusal :=
  match TileFormat.ofCode f with
  | none => s.raise (illegalCommand (Instr.tileLoad f).opcode f)
  | some fmt =>
    match lengthError fmt.bytes s.din.length with
    | some e => s.raise e
    | none => (s.putTile fmt (Memory.ofBytes s.din)).reply 0 .empty

/-- TILE.READ (R193): the storage bytes in offset order. -/
def execTileRead (s : State) : Host.Outcome State Fault Refusal :=
  s.reply 0 (.bytes (s.tile.toBytes s.tileFmt.bytes))

/-- TILE.GETPIX (R194). -/
def execTileGetPix (x y : Byte) (s : State) : Host.Outcome State Fault Refusal :=
  match coordError x.toNat y.toNat with
  | some e => s.raise e
  | none => s.reply ((getPixel s.tileFmt s.tile x.toNat y.toNat).setWidth 32) .empty

/-- TILE.SETPIX (R195): every check before the first write. -/
def execTileSetPix (x y v : Byte) (s : State) : Host.Outcome State Fault Refusal :=
  match pixelError config s.tileFmt x.toNat y.toNat v with
  | some e => s.raise e
  | none => (s.putTile s.tileFmt (setPixel s.tileFmt s.tile x.toNat y.toNat v)).reply 0 .empty

/-- TILE.DECODE (R196): the colormap; it cannot fail. -/
def execTileDecode (s : State) : Host.Outcome State Fault Refusal :=
  s.reply 0 (.bytes (colormap s.tileFmt s.tile))

/-- The scan of TILE.ENCODE (R197) from element `i` on, over the buffer built so far: the first failing
check of the first failing element ends it. -/
def encodeFrom (cfg : Config) (f : TileFormat) (i : Nat) (m : Memory) : List Byte → Except CmdError Memory
  | [] => .ok m
  | v :: vs =>
    match pixelError cfg f (i % 8) (i / 8) v with
    | some e => .error e
    | none => encodeFrom cfg f (i + 1) (setPixel f m (i % 8) (i / 8) v) vs

/-- TILE.ENCODE (R197): the colormap written onto a fresh zero tile, committed only if no element failed. -/
def execTileEncode (f : Byte) (s : State) : Host.Outcome State Fault Refusal :=
  match TileFormat.ofCode f with
  | none => s.raise (illegalCommand (Instr.tileEncode f).opcode f)
  | some fmt =>
    match encodeFrom config fmt 0 Memory.zero s.din with
    | .error e => s.raise e
    | .ok m => (s.putTile fmt m).reply 0 .empty

end Sys2Proof.Machine
end

