-- ==== Sys2Proof/Machine/Dispatch.lean ====
section
/-! DEFINITION. One arm per command: the direct call of its meaning. -/

namespace Sys2Proof.Machine

def exec (i : Instr) (s : State) : Host.Outcome State Fault Refusal :=
  match i with
  | .c15To24 c => Sys2Proof.Machine.execC15To24 c s
  | .c15Make r g b => Sys2Proof.Machine.execC15Make r g b s
  | .c15GetR c => Sys2Proof.Machine.execC15GetR c s
  | .c15GetG c => Sys2Proof.Machine.execC15GetG c s
  | .c15GetB c => Sys2Proof.Machine.execC15GetB c s
  | .c15SetR v c => Sys2Proof.Machine.execC15SetR v c s
  | .c15SetG v c => Sys2Proof.Machine.execC15SetG v c s
  | .c15SetB v c => Sys2Proof.Machine.execC15SetB v c s
  | .c24To15 d => Sys2Proof.Machine.execC24To15 d s
  | .c24Make r g b => Sys2Proof.Machine.execC24Make r g b s
  | .c24GetR d => Sys2Proof.Machine.execC24GetR d s
  | .c24GetG d => Sys2Proof.Machine.execC24GetG d s
  | .c24GetB d => Sys2Proof.Machine.execC24GetB d s
  | .c24SetR v d => Sys2Proof.Machine.execC24SetR v d s
  | .c24SetG v d => Sys2Proof.Machine.execC24SetG v d s
  | .c24SetB v d => Sys2Proof.Machine.execC24SetB v d s
  | .palLoad sel => Sys2Proof.Machine.execPalLoad sel s
  | .palGet k => Sys2Proof.Machine.execPalGet k s
  | .palSet k c => Sys2Proof.Machine.execPalSet k c s
  | .tileNew f => Sys2Proof.Machine.execTileNew f s
  | .tileLoad f => Sys2Proof.Machine.execTileLoad f s
  | .tileRead => Sys2Proof.Machine.execTileRead s
  | .tileGetPix x y => Sys2Proof.Machine.execTileGetPix x y s
  | .tileSetPix x y v => Sys2Proof.Machine.execTileSetPix x y v s
  | .tileDecode => Sys2Proof.Machine.execTileDecode s
  | .tileEncode f => Sys2Proof.Machine.execTileEncode f s
  | .pipeNative => Sys2Proof.Machine.execPipeNative s
  | .pipeDisplay => Sys2Proof.Machine.execPipeDisplay s
  | .pipeDirect pa => Sys2Proof.Machine.execPipeDirect pa s

end Sys2Proof.Machine
end

