-- ==== Sys2Proof/Machine/Port.lean ====
section
/-! DEFINITION. What one input does, and how a command word comes to the port: the bodies that `step` and
`withFetchWord` call. -/

namespace Sys2Proof.Machine

/-- A presented command: decode its word and run it; an undefined opcode is answered ILLEGAL_COMMAND with
the word's OPC and A fields (R90, R92). Log entry 4. -/
def runCommand (c : Command) (s : State) : Host.Outcome State Fault Refusal :=
  match decode c.word with
  | some i => exec i s
  | none => s.raise (illegalCommand (opcField c.word) (aField c.word))

/-- One step: the input at the port takes its effect; with none the block is idle and holds its state
(R259, R282; log entry 7). -/
def takeInput (s : State) : Host.Outcome State Fault Refusal :=
  match s.inputs with
  | [] => .next s
  | .reset :: _ => .next s.takeReset
  | .command c :: _ => runCommand c s

/-- The inputs with the word `w` presented next: it takes the place of the word at the port, whose payload
stays, and comes first where no command is there. Log entry 25. -/
def presentWord (w : CmdWord) : List Input → List Input
  | .command c :: rest => .command { c with word := w } :: rest
  | rest => .command { word := w, din := Payload.none } :: rest

end Sys2Proof.Machine
end

