-- ==== Sys2Proof/Machine/Step.lean ====
section
/-! DEFINITION. One step of the machine, and the placing of a command word where the step takes its next one. -/

namespace Sys2Proof.Machine

/-- One step: one input, completely (R60). -/
def step (s : State) : Host.Outcome State Fault Refusal := takeInput s

/-- `s` with the command word of the low `nbits` bits of `w` at the port, so that the next step runs it. -/
def State.withFetchWord (s : State) (nbits w : Nat) : State :=
  { s with inputs := presentWord (tableWord nbits w) s.inputs }

end Sys2Proof.Machine
end

