-- ==== Sys2Proof/Safety.lean ====
section
/-! DEFINITION. What holds of every good state (R32), which words are illegal (R90), and the terms the claims
use: a response written out field by field, and a state with nothing changed but the answer. -/

namespace Sys2Proof.Machine

/-- The invariants of R32, and the one canonical form of both stores: `T` has no byte beyond
BYTES(tile_fmt), `P` no entry beyond CAP(pal_size). `tile_fmt` is legal by its type. -/
def State.inv (s : State) : Bool :=
  Memory.wf s.tile && Cells.below s.tileFmt.bytes s.tile &&
    (Palette.wf s.pal && Cells.below s.palSize.cap s.pal)

/-- Every entry of the current palette has been written: the host has met the boot duty of R284. -/
def State.paletteWritten (s : State) : Bool :=
  (List.range s.palSize.cap).all (fun i => (s.pal.entry i).isSome)

/-- The two states agree on the spec's four items of state (R20). -/
def sameItems (s t : State) : Prop :=
  t.tileFmt = s.tileFmt ∧ t.tile = s.tile ∧ t.palSize = s.palSize ∧ t.pal = s.pal

/-- `s` with the command at the port answered by `r`, and nothing else changed. -/
def answered (s : State) (r : Response) : State :=
  { tileFmt := s.tileFmt
    tile := s.tile
    palSize := s.palSize
    pal := s.pal
    inputs := s.inputs.tail
    responses := s.responses ++ [r]
    draws := s.draws }

/-- `OK w=<w>` (R83). -/
def okWord (w : BitVec 32) : Response :=
  { ok := true, kind := 0#3, e0 := 0#16, e1 := 0#16, w := w, dout := .empty }

/-- `OK` with an output sequence (R83). -/
def okOut (d : Dout) : Response :=
  { ok := true, kind := 0#3, e0 := 0#16, e1 := 0#16, w := 0#32, dout := d }

/-- `ERR` with the kind's code and the information fields (R83, R241). -/
def err (code e0 e1 : Nat) : Response :=
  { ok := false, kind := BitVec.ofNat 3 code, e0 := BitVec.ofNat 16 e0, e1 := BitVec.ofNat 16 e1, w := 0#32,
    dout := .empty }

/-- The opcode is one of the twenty-nine of R85. -/
def definedOpcode (w : CmdWord) : Prop :=
  (0x10 ≤ w.toNat / 2 ^ 56 ∧ w.toNat / 2 ^ 56 ≤ 0x22) ∨ (0x30 ≤ w.toNat / 2 ^ 56 ∧ w.toNat / 2 ^ 56 ≤ 0x36) ∨
    (0x40 ≤ w.toNat / 2 ^ 56 ∧ w.toNat / 2 ^ 56 ≤ 0x42)

/-- The three illegal encodings of R90. -/
def illegalWord (w : CmdWord) : Prop :=
  ¬ definedOpcode w ∨
    (w.extractLsb' 56 8 ∈ [0x30#8, 0x31#8, 0x36#8] ∧ 10 ≤ (w.extractLsb' 48 8).toNat) ∨
    (w.extractLsb' 56 8 = 0x20#8 ∧ 2 ≤ (w.extractLsb' 48 8).toNat)

/-- The bits of the command word that a command reads: its opcode and the fields of its format, less the
ignored bits of a Color15 operand and of PIPE.DIRECT's argument (R81, R88, R89). -/
def usedBits : Instr → CmdWord
  | .c15To24 _ => 0xFF0000000000FFFF#64
  | .c15Make _ _ _ => 0xFFFFFFFF00000000#64
  | .c15GetR _ => 0xFF0000000000FFFF#64
  | .c15GetG _ => 0xFF0000000000FFFF#64
  | .c15GetB _ => 0xFF0000000000FFFF#64
  | .c15SetR _ _ => 0xFFFF00000000FFFF#64
  | .c15SetG _ _ => 0xFFFF00000000FFFF#64
  | .c15SetB _ _ => 0xFFFF00000000FFFF#64
  | .c24To15 _ => 0xFF000000FFFFFFFF#64
  | .c24Make _ _ _ => 0xFFFFFFFF00000000#64
  | .c24GetR _ => 0xFF000000FFFFFFFF#64
  | .c24GetG _ => 0xFF000000FFFFFFFF#64
  | .c24GetB _ => 0xFF000000FFFFFFFF#64
  | .c24SetR _ _ => 0xFFFF0000FFFFFFFF#64
  | .c24SetG _ _ => 0xFFFF0000FFFFFFFF#64
  | .c24SetB _ _ => 0xFFFF0000FFFFFFFF#64
  | .palLoad _ => 0xFFFF000000000000#64
  | .palGet _ => 0xFFFF000000000000#64
  | .palSet _ _ => 0xFFFF00000000FFFF#64
  | .tileNew _ => 0xFFFF000000000000#64
  | .tileLoad _ => 0xFFFF000000000000#64
  | .tileRead => 0xFF00000000000000#64
  | .tileGetPix _ _ => 0xFFFFFF0000000000#64
  | .tileSetPix _ _ _ => 0xFFFFFFFF00000000#64
  | .tileDecode => 0xFF00000000000000#64
  | .tileEncode _ => 0xFFFF000000000000#64
  | .pipeNative => 0xFF00000000000000#64
  | .pipeDisplay => 0xFF00000000000000#64
  | .pipeDirect _ => 0xFF07000000000000#64

/-- A pixel value that TILE.SETPIX and TILE.ENCODE accept in format `f` on this hardware (R174). -/
def acceptedValue (f : TileFormat) (v : Byte) : Prop :=
  ∀ n, f.limit config = some n → v.toNat < n

/-- `k` is the offset of a byte that holds part of pixel `(x, y)` in format `f`: what TILE.SETPIX stores to. -/
def storedByte (f : TileFormat) (x y k : Nat) : Prop :=
  match f.layout with
  | none => k = mode7Addr x y
  | some l => ∃ p, p < f.depth ∧ k = planeAddr l p y

/-- What a successful response carries, command by command: the table of R84, row by row. `s` is the state
the command found. -/
def resultShape (i : Instr) (s : State) (r : Response) : Prop :=
  match i with
  | .c15To24 _ => r.dout = .empty
  | .c24Make _ _ _ => r.dout = .empty
  | .c24SetR _ _ => r.dout = .empty
  | .c24SetG _ _ => r.dout = .empty
  | .c24SetB _ _ => r.dout = .empty
  | .c24To15 _ => r.w.toNat < 2 ^ 16 ∧ r.dout = .empty
  | .c15Make _ _ _ => r.w.toNat < 2 ^ 16 ∧ r.dout = .empty
  | .c15SetR _ _ => r.w.toNat < 2 ^ 16 ∧ r.dout = .empty
  | .c15SetG _ _ => r.w.toNat < 2 ^ 16 ∧ r.dout = .empty
  | .c15SetB _ _ => r.w.toNat < 2 ^ 16 ∧ r.dout = .empty
  | .palGet _ => r.w.toNat < 2 ^ 16 ∧ r.dout = .empty
  | .c15GetR _ => r.w.toNat < 2 ^ 5 ∧ r.dout = .empty
  | .c15GetG _ => r.w.toNat < 2 ^ 5 ∧ r.dout = .empty
  | .c15GetB _ => r.w.toNat < 2 ^ 5 ∧ r.dout = .empty
  | .c24GetR _ => r.w.toNat < 2 ^ 8 ∧ r.dout = .empty
  | .c24GetG _ => r.w.toNat < 2 ^ 8 ∧ r.dout = .empty
  | .c24GetB _ => r.w.toNat < 2 ^ 8 ∧ r.dout = .empty
  | .tileGetPix _ _ => r.w.toNat < 2 ^ 8 ∧ r.dout = .empty
  | .tileNew _ => r.w = 0 ∧ r.dout = .empty
  | .tileLoad _ => r.w = 0 ∧ r.dout = .empty
  | .tileEncode _ => r.w = 0 ∧ r.dout = .empty
  | .tileSetPix _ _ _ => r.w = 0 ∧ r.dout = .empty
  | .palLoad _ => r.w = 0 ∧ r.dout = .empty
  | .palSet _ _ => r.w = 0 ∧ r.dout = .empty
  | .tileRead => r.w = 0 ∧ ∃ es, r.dout = .bytes es ∧ es.length = s.tileFmt.bytes
  | .tileDecode => r.w = 0 ∧ ∃ es, r.dout = .bytes es ∧ es.length = 64
  | .pipeNative => r.w = 0 ∧ ∃ es, r.dout = .color15s es ∧ es.length = 64
  | .pipeDirect _ => r.w = 0 ∧ ∃ es, r.dout = .color15s es ∧ es.length = 64
  | .pipeDisplay => r.w = 0 ∧ ∃ es, r.dout = .color24s es ∧ es.length = 64

/-- The command group, the high nibble of the opcode (R85): 1 colour, 2 palette, 3 tile, 4 pipeline. -/
def commandGroup (i : Instr) : Nat := i.opcode.toNat / 16

end Sys2Proof.Machine
end

