-- ==== Sys2Proof/Certificates/Slice0/Obligations.lean ====
section
/-! DEFINITION. The statements for the provers. A result statement gives the whole next state, as an equation or
through `answered`, so it is at once the command's completion, its result and its frame. -/

open Sys2Proof Sys2Proof.Machine

/-! ### Encoding -/

/-- Decode and encode agree on every command, every operand at every value its field admits
(R81, R85, R88, R92; the encoder writes zero in ignored bits, R89). -/
def Obligations.DecodeOfEncode : Prop :=
  ∀ i : Instr, decode (encode i) = some i

/-- The used bits of a word are exactly the bits of the command read from it, and nothing else of the word
matters: a decoded word agrees with the encoder's word on the used bits, and a word that agrees with it on them
decodes to the same command (R88, R89: ignored bits give "the same behaviour as zero"). -/
def Obligations.UsedBitsDecideTheCommand : Prop :=
  (∀ (w : CmdWord) (i : Instr), decode w = some i → w &&& usedBits i = encode i) ∧
  (∀ (w w' : CmdWord) (i : Instr), decode w = some i → w' &&& usedBits i = w &&& usedBits i → decode w' = some i)

/-- A word decodes exactly when its opcode is one of the twenty-nine (R85, R92). -/
def Obligations.DecodesExactlyDefinedOpcodes : Prop :=
  ∀ w : CmdWord, (decode w).isSome = true ↔ definedOpcode w

/-- Words of the assembler's table (R93), one of each operand format, decode to their commands. -/
def Obligations.AssemblerWordsDecode : Prop :=
  decode 0x1000000000007FFF#64 = some (.c15To24 0x7FFF#16) ∧
  decode 0x111F001F00000000#64 = some (.c15Make 31#8 0#8 31#8) ∧
  decode 0x16FF000000008000#64 = some (.c15SetG 0xFF#8 0x8000#16) ∧
  decode 0x1800000000FF8040#64 = some (.c24To15 0x00FF8040#32) ∧
  decode 0x210F000000000000#64 = some (.palGet 15#8) ∧
  decode 0x22050000000003E0#64 = some (.palSet 5#8 0x03E0#16) ∧
  decode 0x3006000000000000#64 = some (.tileNew 6#8) ∧
  decode 0x3303040000000000#64 = some (.tileGetPix 3#8 4#8) ∧
  decode 0x3403040200000000#64 = some (.tileSetPix 3#8 4#8 2#8) ∧
  decode 0x3601000000000000#64 = some (.tileEncode 1#8) ∧
  decode 0x4000000000000000#64 = some .pipeNative ∧
  decode 0x4205000000000000#64 = some (.pipeDirect 5#3)

/-! ### The machine -/

/-- A step with a command at the port whose word decodes to `i` is `exec i` of that state (R60, R92). The second
clause, that a word placed by `withFetchWord` is the one the next step runs, rests on no rule: how a word is placed
(log entry 25) and how the opcode table's number is read as a word (log entry 17) are the model's choice. -/
def Obligations.StepRunsDecodedCommand : Prop :=
  (∀ (s : State) (c : Command) (rest : List Input) (i : Instr),
    s.inputs = .command c :: rest → decode c.word = some i → step s = exec i s) ∧
  (∀ (s : State) (nbits w : Nat) (i : Instr),
    decodeTableWord nbits w = some i → step (s.withFetchWord nbits w) = exec i (s.withFetchWord nbits w))

/-- The three illegal encodings are answered ILLEGAL_COMMAND with OPC and A, before any other check, and change
no state. R90 gives this answer; that the model gives it too, and does not refuse such a word at its decoder, is
the model's choice (log entry 4). -/
def Obligations.IllegalWordAnswered : Prop :=
  ∀ (s : State) (c : Command) (rest : List Input),
    s.inputs = .command c :: rest → illegalWord c.word →
      step s = .next (answered s (err 7 (c.word.extractLsb' 56 8).toNat (c.word.extractLsb' 48 8).toNat))

/-- With nothing at the port the block is idle and holds its state (R259; that idling is a step is the model's
choice, log entry 7). -/
def Obligations.IdleStepHoldsState : Prop :=
  ∀ s : State, s.inputs = [] → step s = .next s

/-- The `RESET` event puts the four items of state into their reset values and gives no response (R280, R33, R34).
That the event is an input of the model, and what it does to the model's own fields, is the model's choice (log
entry 8). -/
def Obligations.ResetEventResetsItems : Prop :=
  ∀ (s : State) (rest : List Input), s.inputs = .reset :: rest →
    ∃ t, step s = .next t ∧ t.tileFmt = .bpp1 ∧ (∀ k, t.tile.read k = 0x00#8) ∧ t.palSize = .pal16 ∧
      (∀ i, t.pal.entry i = none) ∧ t.inputs = rest ∧ t.responses = s.responses ∧ t.draws = s.draws

/-- After reset the current tile is the zero tile of format 0 (the spec's own decision D30, log entry 20), the one
TILE.NEW with A = 0 makes in any state (R33); the palette has 16 entries and none of them has been written (R34; the
form is the model's, log entry 3). -/
def Obligations.ResetStateItems : Prop :=
  State.reset.tileFmt = .bpp1 ∧ (∀ k, State.reset.tile.read k = 0x00#8) ∧ State.reset.palSize = .pal16 ∧
  (∀ i, State.reset.pal.entry i = none) ∧
  (∀ s : State, ∃ t, exec (.tileNew 0#8) s = .next t ∧ t.tileFmt = State.reset.tileFmt ∧
    t.tile = State.reset.tile)

/-- The state after reset satisfies the invariant (R32). -/
def Obligations.ResetSatisfiesInvariant : Prop :=
  State.reset.inv = true

/-- Every step, in every state with the invariant, leaves a state with the invariant: no byte of `T` beyond
BYTES(tile_fmt), no entry of `P` beyond CAP(pal_size), both stores in canonical form (R32). -/
def Obligations.StepKeepsInvariant : Prop :=
  ∀ s t : State, s.inv = true → step s = .next t → t.inv = true

/-- Every step answers a next state, whatever the state and whatever is at the port; a command leaves the port
and gets exactly one response ("complete unconditionally", R60, R83, R290, which speak of commands). That no step
faults or refuses is deduced (log entry 26); that the empty port (log entry 7), the `RESET` event (log entry 8) and
an illegal word, answered and not refused (log entry 4), have a next state as well is the model's choice. -/
def Obligations.EveryStepCompletes : Prop :=
  (∀ s : State, ∃ t, step s = .next t) ∧
  (∀ (s : State) (c : Command) (rest : List Input), s.inputs = .command c :: rest →
    ∃ t r, step s = .next t ∧ t.inputs = rest ∧ t.responses = s.responses ++ [r])

/-- The response of R83: exactly one per command; a success has no error fields, a failure one of the five kind
codes, a zero result word and no output. -/
def Obligations.ResponseFields : Prop :=
  ∀ (i : Instr) (s : State), ∃ t r, exec i s = .next t ∧ t.responses = s.responses ++ [r] ∧
    (r.ok = true → r.kind = 0 ∧ r.e0 = 0 ∧ r.e1 = 0) ∧
    (r.ok = false → r.kind ∈ [1#3, 2#3, 3#3, 4#3, 7#3] ∧ r.w = 0 ∧ r.dout = .empty)

/-- Where a success puts its result, and the width and number of its output elements, command by command (R84). -/
def Obligations.ResultPlacement : Prop :=
  ∀ (i : Instr) (s : State), ∃ t r, exec i s = .next t ∧ t.responses = s.responses ++ [r] ∧
    (r.ok = true → resultShape i s r)

/-- A failed command changes no state (R250): everything but the port and the responses is as it was, whether the
command is run by `exec` or its word, decodable or not, is taken by `step`. -/
def Obligations.FailedCommandChangesNothing : Prop :=
  (∀ (i : Instr) (s t : State) (r : Response), exec i s = .next t → t.responses = s.responses ++ [r] →
    r.ok = false → t = answered s r) ∧
  (∀ (s t : State) (c : Command) (rest : List Input) (r : Response), s.inputs = .command c :: rest →
    step s = .next t → t.responses = s.responses ++ [r] → r.ok = false → t = answered s r)

/-- The commands that can never fail, in any state, with any operands; with 256 entries four more (R252). -/
def Obligations.CommandsThatNeverFail : Prop :=
  ∀ (i : Instr) (s : State),
    (commandGroup i = 1 ∨ i.opcode ∈ [0x32#8, 0x35#8, 0x42#8] ∨
      (s.palSize = .pal256 ∧ i.opcode ∈ [0x21#8, 0x22#8, 0x40#8, 0x41#8])) →
    ∃ t r, exec i s = .next t ∧ t.responses = s.responses ++ [r] ∧ r.ok = true

/-- Which command can raise which kind (the matrix of R249): kind 1 only TILE.LOAD and PAL.LOAD; kind 2 only
TILE.GETPIX, SETPIX and ENCODE; kind 3 only TILE.SETPIX in a format with a limit and TILE.ENCODE; kind 4 only the
four palette readers and writers with 16 entries; kind 7 only an ill-formed command. -/
def Obligations.ErrorKindsPerCommand : Prop :=
  ∀ (i : Instr) (s t : State) (r : Response), exec i s = .next t → t.responses = s.responses ++ [r] →
    r.ok = false →
      (r.kind = 1#3 ∧ i.opcode ∈ [0x31#8, 0x20#8]) ∨
      (r.kind = 2#3 ∧ i.opcode ∈ [0x33#8, 0x34#8, 0x36#8]) ∨
      (r.kind = 3#3 ∧ i.opcode = 0x34#8 ∧ s.tileFmt ≠ .bpp8Inter ∧ s.tileFmt ≠ .mode7) ∨
      (r.kind = 3#3 ∧ ∃ f, i = .tileEncode f ∧ f.toNat < 8) ∨
      (r.kind = 4#3 ∧ s.palSize = .pal16 ∧ i.opcode ∈ [0x21#8, 0x22#8, 0x40#8, 0x41#8]) ∨
      (r.kind = 7#3 ∧ i.wellFormed = false)

/-- The reading commands leave the spec's four items as they found them, succeed or fail; only the palette
readers can advance the model's count of free values (R59). -/
def Obligations.ReadingCommandsLeaveItems : Prop :=
  ∀ (i : Instr) (s t : State), i.opcode ∉ [0x20#8, 0x22#8, 0x30#8, 0x31#8, 0x34#8, 0x36#8] → exec i s = .next t →
    sameItems s t ∧ (i.opcode ∉ [0x21#8, 0x40#8, 0x41#8] → t.draws = s.draws)

/-- The writing commands are idempotent: the same command with the same payload, run again, leaves the same
four items (R59). -/
def Obligations.WritingCommandsIdempotent : Prop :=
  ∀ (i : Instr) (s t : State), s.inv = true → i.opcode ∈ [0x20#8, 0x22#8, 0x30#8, 0x31#8, 0x34#8, 0x36#8] →
    exec i s = .next t → ∃ u, exec i { t with inputs := s.inputs } = .next u ∧ sameItems t u

/-- No command's response or effect depends on earlier responses or on what the host presents later: only on the
operands, the payload and the current tile and palette (R25, R31). -/
def Obligations.HistoryDoesNotMatter : Prop :=
  ∀ (i : Instr) (s : State) (rs : List Response) (ins : List Input),
    ({ s with responses := rs, inputs := ins } : State).din = s.din →
    ∃ t u r, exec i s = .next t ∧ exec i { s with responses := rs, inputs := ins } = .next u ∧
      t.responses = s.responses ++ [r] ∧ u.responses = rs ++ [r] ∧ sameItems t u ∧ u.draws = t.draws

/-- Colour commands, tile commands and PIPE.DIRECT neither read nor write the palette; colour and palette commands
neither read nor write the tile (R144 (c), R114, R223): replacing the one store beforehand is the same as replacing
it afterwards. -/
def Obligations.TileAndPaletteIndependent : Prop :=
  (∀ (i : Instr) (s : State) (z : PalSize) (p : Palette),
    (commandGroup i = 1 ∨ commandGroup i = 3 ∨ i.opcode = 0x42#8) →
    ∃ t, exec i s = .next t ∧ t.palSize = s.palSize ∧ t.pal = s.pal ∧
      exec i { s with palSize := z, pal := p } = .next { t with palSize := z, pal := p }) ∧
  (∀ (i : Instr) (s : State) (f : TileFormat) (m : Memory),
    (commandGroup i = 1 ∨ commandGroup i = 2) →
    ∃ t, exec i s = .next t ∧ t.tileFmt = s.tileFmt ∧ t.tile = s.tile ∧
      exec i { s with tileFmt := f, tile := m } = .next { t with tileFmt := f, tile := m })

/-! ### color_channel_shifter -/

/-- C15.TO24 (R115): the operand is W[15:0]; each channel shifted left by 3 into its byte; never fails. -/
def Obligations.Color15ToColor24Result : Prop :=
  (∀ w : CmdWord, w.extractLsb' 56 8 = 0x10#8 → decode w = some (.c15To24 (w.extractLsb' 0 16))) ∧
  (∀ (c : Color15) (s : State), exec (.c15To24 c) s = .next (answered s (okWord
    (((c.extractLsb' 0 5).setWidth 32 <<< 19) ||| ((c.extractLsb' 5 5).setWidth 32 <<< 11) |||
      ((c.extractLsb' 10 5).setWidth 32 <<< 3)))))

/-- C24.TO15 (R123): the operand is W; the top five bits of each byte; never fails. -/
def Obligations.Color24ToColor15Result : Prop :=
  (∀ w : CmdWord, w.extractLsb' 56 8 = 0x18#8 → decode w = some (.c24To15 (w.extractLsb' 0 32))) ∧
  (∀ (d : Color24) (s : State), exec (.c24To15 d) s = .next (answered s (okWord
    ((d.extractLsb' 19 5).setWidth 32 ||| ((d.extractLsb' 11 5).setWidth 32 <<< 5) |||
      ((d.extractLsb' 3 5).setWidth 32 <<< 10)))))

/-- C15.MAKE (R116) and C24.MAKE (R124): a colour from its channels, masked silently to their widths. The masking in
the constructor and C24.MAKE itself are the spec's own decisions (D23, D24, log entry 18). -/
def Obligations.ColorFromChannelsResult : Prop :=
  (∀ w : CmdWord, w.extractLsb' 56 8 = 0x11#8 →
    decode w = some (.c15Make (w.extractLsb' 48 8) (w.extractLsb' 40 8) (w.extractLsb' 32 8))) ∧
  (∀ (r g b : Byte) (s : State), exec (.c15Make r g b) s = .next (answered s (okWord
    (BitVec.ofNat 32 (r.toNat % 32 + 32 * (g.toNat % 32) + 1024 * (b.toNat % 32)))))) ∧
  (∀ w : CmdWord, w.extractLsb' 56 8 = 0x19#8 →
    decode w = some (.c24Make (w.extractLsb' 48 8) (w.extractLsb' 40 8) (w.extractLsb' 32 8))) ∧
  (∀ (r g b : Byte) (s : State), exec (.c24Make r g b) s = .next (answered s (okWord
    (BitVec.ofNat 32 (65536 * r.toNat + 256 * g.toNat + b.toNat)))))

/-- The accessors of Color15 (R117, R118, R119): red, green and blue as numbers; bit 15 is in none of them. -/
def Obligations.Color15AccessorResults : Prop :=
  (∀ w : CmdWord, w.extractLsb' 56 8 = 0x12#8 → decode w = some (.c15GetR (w.extractLsb' 0 16))) ∧
  (∀ w : CmdWord, w.extractLsb' 56 8 = 0x13#8 → decode w = some (.c15GetG (w.extractLsb' 0 16))) ∧
  (∀ w : CmdWord, w.extractLsb' 56 8 = 0x14#8 → decode w = some (.c15GetB (w.extractLsb' 0 16))) ∧
  (∀ (c : Color15) (s : State),
    exec (.c15GetR c) s = .next (answered s (okWord (BitVec.ofNat 32 (c.toNat % 32)))) ∧
    exec (.c15GetG c) s = .next (answered s (okWord (BitVec.ofNat 32 (c.toNat / 32 % 32)))) ∧
    exec (.c15GetB c) s = .next (answered s (okWord (BitVec.ofNat 32 (c.toNat / 1024 % 32)))))

/-- The accessors of Color24 (R125, R126, R127): red, green and blue as numbers; bits 31 to 24 are in none. -/
def Obligations.Color24AccessorResults : Prop :=
  (∀ w : CmdWord, w.extractLsb' 56 8 = 0x1A#8 → decode w = some (.c24GetR (w.extractLsb' 0 32))) ∧
  (∀ w : CmdWord, w.extractLsb' 56 8 = 0x1B#8 → decode w = some (.c24GetG (w.extractLsb' 0 32))) ∧
  (∀ w : CmdWord, w.extractLsb' 56 8 = 0x1C#8 → decode w = some (.c24GetB (w.extractLsb' 0 32))) ∧
  (∀ (d : Color24) (s : State),
    exec (.c24GetR d) s = .next (answered s (okWord (BitVec.ofNat 32 (d.toNat / 65536 % 256)))) ∧
    exec (.c24GetG d) s = .next (answered s (okWord (BitVec.ofNat 32 (d.toNat / 256 % 256)))) ∧
    exec (.c24GetB d) s = .next (answered s (okWord (BitVec.ofNat 32 (d.toNat % 256)))))

/-- The mutators of Color15 (R120, R121, R122): the result is the Color15 whose own channel is the operand's low
five bits and whose other channels and bit 15 are the given colour's. -/
def Obligations.Color15MutatorResults : Prop :=
  (∀ w : CmdWord, w.extractLsb' 56 8 = 0x15#8 →
    decode w = some (.c15SetR (w.extractLsb' 48 8) (w.extractLsb' 0 16))) ∧
  (∀ w : CmdWord, w.extractLsb' 56 8 = 0x16#8 →
    decode w = some (.c15SetG (w.extractLsb' 48 8) (w.extractLsb' 0 16))) ∧
  (∀ w : CmdWord, w.extractLsb' 56 8 = 0x17#8 →
    decode w = some (.c15SetB (w.extractLsb' 48 8) (w.extractLsb' 0 16))) ∧
  (∀ (v : Byte) (c : Color15) (s : State),
    exec (.c15SetR v c) s = .next (answered s (okWord
      ((c.extractLsb' 5 11 ++ v.extractLsb' 0 5).setWidth 32))) ∧
    exec (.c15SetG v c) s = .next (answered s (okWord
      ((c.extractLsb' 10 6 ++ (v.extractLsb' 0 5 ++ c.extractLsb' 0 5)).setWidth 32))) ∧
    exec (.c15SetB v c) s = .next (answered s (okWord
      ((c.extractLsb' 15 1 ++ (v.extractLsb' 0 5 ++ c.extractLsb' 0 10)).setWidth 32))))

/-- The mutators of Color24 (R128, R129, R130): the result is the Color24 whose own byte is the operand and whose
other three bytes are the given colour's. -/
def Obligations.Color24MutatorResults : Prop :=
  (∀ w : CmdWord, w.extractLsb' 56 8 = 0x1D#8 →
    decode w = some (.c24SetR (w.extractLsb' 48 8) (w.extractLsb' 0 32))) ∧
  (∀ w : CmdWord, w.extractLsb' 56 8 = 0x1E#8 →
    decode w = some (.c24SetG (w.extractLsb' 48 8) (w.extractLsb' 0 32))) ∧
  (∀ w : CmdWord, w.extractLsb' 56 8 = 0x1F#8 →
    decode w = some (.c24SetB (w.extractLsb' 48 8) (w.extractLsb' 0 32))) ∧
  (∀ (v : Byte) (d : Color24) (s : State),
    exec (.c24SetR v d) s = .next (answered s (okWord
      ((d.extractLsb' 24 8 ++ (v ++ d.extractLsb' 0 16)).setWidth 32))) ∧
    exec (.c24SetG v d) s = .next (answered s (okWord
      ((d.extractLsb' 16 16 ++ (v ++ d.extractLsb' 0 8)).setWidth 32))) ∧
    exec (.c24SetB v d) s = .next (answered s (okWord
      ((d.extractLsb' 8 24 ++ v).setWidth 32))))

/-- The laws of the conversions (R131): the round trip through Color24 keeps the fifteen meaningful bits, the
round trip through Color15 the top five bits of each byte, and `to24` is injective where bit 15 is 0. -/
def Obligations.ConversionRoundTrips : Prop :=
  (∀ c : Color15, to15 (to24 c) = c &&& 0x7FFF#16) ∧
  (∀ d : Color24, to24 (to15 d) = d &&& 0x00F8F8F8#32) ∧
  (∀ c c' : Color15, c.getLsbD 15 = false → c'.getLsbD 15 = false → to24 c = to24 c' → c = c')

/-! ### palette_ram_lookup -/

/-- PAL.LOAD (R141), its three outcomes: an illegal select; a payload that is not exactly 32 or 512 bytes; else
every entry at once, byte pairs low byte first, and nothing else changed. That an illegal select is answered and not
refused is the model's choice (log entry 4). -/
def Obligations.PalLoadResult : Prop :=
  (∀ w : CmdWord, w.extractLsb' 56 8 = 0x20#8 → decode w = some (.palLoad (w.extractLsb' 48 8))) ∧
  (∀ (sel : Byte) (s : State), 2 ≤ sel.toNat →
    exec (.palLoad sel) s = .next (answered s (err 7 0x20 sel.toNat))) ∧
  (∀ (sel : Byte) (z : PalSize) (n : Nat) (s : State),
    ((sel = 0#8 ∧ z = .pal16 ∧ n = 16) ∨ (sel = 1#8 ∧ z = .pal256 ∧ n = 256)) →
    (s.din.length ≠ 2 * n → exec (.palLoad sel) s = .next (answered s (err 1 (2 * n) s.din.length))) ∧
    (s.din.length = 2 * n → ∃ p : Palette,
      exec (.palLoad sel) s = .next (answered { s with palSize := z, pal := p } (okWord 0)) ∧
      (∀ i, i < n → p.entry i = some (s.din.getD (2 * i + 1) 0 ++ s.din.getD (2 * i) 0)) ∧
      (∀ i, n ≤ i → p.entry i = none)))

/-- PAL.GET (R142): with 16 entries an index of 16 or more fails; a written entry is returned, all 16 bits; an
entry never written since reset gives some value, and the command still succeeds (R34). Only the model's own count
of free values may then change (log entry 3). -/
def Obligations.PalGetResult : Prop :=
  (∀ w : CmdWord, w.extractLsb' 56 8 = 0x21#8 → decode w = some (.palGet (w.extractLsb' 48 8))) ∧
  (∀ (i : Byte) (s : State), s.palSize = .pal16 → 16 ≤ i.toNat →
    exec (.palGet i) s = .next (answered s (err 4 i.toNat 16))) ∧
  (∀ (i : Byte) (s : State), (s.palSize = .pal256 ∨ i.toNat < 16) →
    (∀ c, s.pal.entry i.toNat = some c → exec (.palGet i) s = .next (answered s (okWord (c.setWidth 32)))) ∧
    (s.pal.entry i.toNat = none → ∃ (v : Color15) (n : Nat),
      exec (.palGet i) s = .next (answered { s with draws := n } (okWord (v.setWidth 32)))))

/-- PAL.SET (R143): with 16 entries an index of 16 or more fails; else that one entry holds all 16 bits of the
colour, every other entry and everything else is unchanged. -/
def Obligations.PalSetResult : Prop :=
  (∀ w : CmdWord, w.extractLsb' 56 8 = 0x22#8 →
    decode w = some (.palSet (w.extractLsb' 48 8) (w.extractLsb' 0 16))) ∧
  (∀ (i : Byte) (c : Color15) (s : State), s.palSize = .pal16 → 16 ≤ i.toNat →
    exec (.palSet i c) s = .next (answered s (err 4 i.toNat 16))) ∧
  (∀ (i : Byte) (c : Color15) (s : State), (s.palSize = .pal256 ∨ i.toNat < 16) →
    ∃ p : Palette, exec (.palSet i c) s = .next (answered { s with pal := p } (okWord 0)) ∧
      p.entry i.toNat = some c ∧ ∀ j, j ≠ i.toNat → p.entry j = s.pal.entry j)

/-- What is written to the palette is read back (R144 (a), (b), R63 (c)): after a PAL.SET that succeeds, PAL.GET of
that index answers the 16 bits set; after a PAL.LOAD of `n` entries, PAL.GET of any index below `n` answers
`D[2i] | (D[2i+1] << 8)`. -/
def Obligations.PaletteReadBack : Prop :=
  (∀ (i : Byte) (c : Color15) (s : State), (s.palSize = .pal256 ∨ i.toNat < 16) →
    ∃ t, exec (.palSet i c) s = .next t ∧ exec (.palGet i) t = .next (answered t (okWord (c.setWidth 32)))) ∧
  (∀ (sel i : Byte) (s : State) (n : Nat), ((sel = 0#8 ∧ n = 16) ∨ (sel = 1#8 ∧ n = 256)) →
    s.din.length = 2 * n → i.toNat < n →
    ∃ t, exec (.palLoad sel) s = .next t ∧ exec (.palGet i) t = .next (answered t (okWord
      ((s.din.getD (2 * i.toNat) 0).setWidth 32 ||| ((s.din.getD (2 * i.toNat + 1) 0).setWidth 32 <<< 8)))))

/-- A palette whose every entry has been written gives no free value: PAL.GET, PIPE.NATIVE and PIPE.DISPLAY then
answer the same whatever the free values are (the boot duty of R284 is enough). -/
def Obligations.WrittenPaletteGivesNoFreeValue : Prop :=
  ∀ (i : Instr) (s : State) (n : Nat), s.paletteWritten = true → i.opcode ∈ [0x21#8, 0x40#8, 0x41#8] →
    ∃ t, exec i s = .next t ∧ t.draws = s.draws ∧ exec i { s with draws := n } = .next { t with draws := n }

/-- Each read of an entry never written since reset draws one free value of its own, so that nothing makes two such
reads agree (R34, U1; the counter is the model's own, log entry 3). -/
def Obligations.OneFreeValuePerUnwrittenRead : Prop :=
  (∀ (i : Byte) (s : State), (s.palSize = .pal256 ∨ i.toNat < 16) →
    ∃ t, exec (.palGet i) s = .next t ∧ t.draws = s.draws + if (s.pal.entry i.toNat).isNone then 1 else 0) ∧
  (∀ s : State, (s.palSize = .pal256 ∨ ∀ u ∈ colormap s.tileFmt s.tile, u.toNat < 16) →
    ∃ t u, exec .pipeNative s = .next t ∧ exec .pipeDisplay s = .next u ∧ u.draws = t.draws ∧
      t.draws = s.draws + (colormap s.tileFmt s.tile).countP (fun v => (s.pal.entry v.toNat).isNone))

/-! ### The tile formats -/

/-- The ten formats (R86, R160, R174): code, byte count, depth and value limit on this hardware. -/
def Obligations.FormatTable : Prop :=
  (∀ c : Byte, TileFormat.ofCode c =
    if c = 0 then some .bpp1 else if c = 1 then some .bpp2Planar else if c = 2 then some .bpp2Inter
    else if c = 3 then some .bpp3Planar else if c = 4 then some .bpp3Inter else if c = 5 then some .bpp4Planar
    else if c = 6 then some .bpp4Inter else if c = 7 then some .bpp8Planar else if c = 8 then some .bpp8Inter
    else if c = 9 then some .mode7 else none) ∧
  ([TileFormat.bpp1, .bpp2Planar, .bpp2Inter, .bpp3Planar, .bpp3Inter, .bpp4Planar, .bpp4Inter, .bpp8Planar,
    .bpp8Inter, .mode7].map (fun f => (f.bytes, f.depth, f.limit config)) =
    [(8, 1, some 2), (16, 2, some 4), (16, 2, some 4), (24, 3, some 8), (24, 3, some 8), (32, 4, some 16),
     (32, 4, some 16), (64, 8, some 16), (64, 8, none), (64, 8, none)]) ∧
  (∀ f : TileFormat, f.bytes = 8 * f.depth)

/-- The plane byte of every bit-plane format (R162 to R170): offset `8p + y` in the planar formats,
`16(p >> 1) + 2y + (p & 1)` in the intertwined ones, both by plane in 3bpp intertwined; Mode7 has no planes and
reads the byte at `8y + x` (R171). -/
def Obligations.PlaneBytesOfEveryFormat : Prop :=
  (∀ f ∈ [TileFormat.bpp1, .bpp2Planar, .bpp3Planar, .bpp4Planar, .bpp8Planar], ∃ l, f.layout = some l ∧
    ∀ p y, p < f.depth → y < 8 → planeAddr l p y = 8 * p + y) ∧
  (∀ f ∈ [TileFormat.bpp2Inter, .bpp4Inter, .bpp8Inter], ∃ l, f.layout = some l ∧
    ∀ p y, p < f.depth → y < 8 → planeAddr l p y = 16 * (p >>> 1) + 2 * y + (p &&& 1)) ∧
  (∃ l, TileFormat.bpp3Inter.layout = some l ∧
    ∀ y, y < 8 → planeAddr l 0 y = 2 * y ∧ planeAddr l 1 y = 2 * y + 1 ∧ planeAddr l 2 y = 16 + y) ∧
  TileFormat.mode7.layout = none ∧
  (∀ (m : Memory) (x y : Nat), getPixel .mode7 m x y = m.read (8 * y + x))

/-- Every byte of a bit-plane tile is the plane byte of exactly one plane and row (R175 (a)). -/
def Obligations.PlaneAddressBijection : Prop :=
  ∀ (f : TileFormat) (l : Layout), f.layout = some l →
    (∀ p y, p < f.depth → y < 8 → planeAddr l p y < f.bytes) ∧
    (∀ k, k < f.bytes → ∃ p y, p < f.depth ∧ y < 8 ∧ planeAddr l p y = k ∧
      ∀ p' y', p' < f.depth → y' < 8 → planeAddr l p' y' = k → p' = p ∧ y' = y)

/-- `get_pixel` (R172): bit `p` of the result is bit `7 - x` of plane byte `p`, and bits DEPTH and above are 0; in
Mode7 the result is the byte at `8y + x`. -/
def Obligations.GetPixelBits : Prop :=
  (∀ (f : TileFormat) (l : Layout) (m : Memory) (x y p : Nat), f.layout = some l → x < 8 → y < 8 →
    (getPixel f m x y).getLsbD p = (decide (p < f.depth) && (m.read (planeAddr l p y)).getLsbD (7 - x))) ∧
  (∀ (m : Memory) (x y : Nat), x < 8 → y < 8 → getPixel .mode7 m x y = m.read (8 * y + x))

/-- `set_pixel` (R173): bit `7 - x` of plane byte `p` becomes bit `p` of the value, for every plane, and every other
bit of the tile keeps its value; in Mode7 the byte at `8y + x` becomes the value and no other byte changes. -/
def Obligations.SetPixelBits : Prop :=
  (∀ (f : TileFormat) (l : Layout) (m : Memory) (x y : Nat) (v : Byte), f.layout = some l → x < 8 → y < 8 →
    (∀ p, p < f.depth → ((setPixel f m x y v).read (planeAddr l p y)).getLsbD (7 - x) = v.getLsbD p) ∧
    (∀ k j, (∀ p, p < f.depth → k = planeAddr l p y → j ≠ 7 - x) →
      ((setPixel f m x y v).read k).getLsbD j = (m.read k).getLsbD j)) ∧
  (∀ (m : Memory) (x y : Nat) (v : Byte), x < 8 → y < 8 →
    (setPixel .mode7 m x y v).read (8 * y + x) = v ∧
    ∀ k, k ≠ 8 * y + x → (setPixel .mode7 m x y v).read k = m.read k)

/-- A pixel set is the pixel got, and no other pixel changes (R175 (b), (c)). -/
def Obligations.GetPixelAfterSetPixel : Prop :=
  ∀ (f : TileFormat) (m : Memory) (x y : Nat) (v : Byte), x < 8 → y < 8 →
    (v.toNat < 2 ^ f.depth → getPixel f (setPixel f m x y v) x y = v) ∧
    (∀ x' y', x' < 8 → y' < 8 → (x' ≠ x ∨ y' ≠ y) →
      getPixel f (setPixel f m x y v) x' y' = getPixel f m x' y')

/-- `set_pixel` depends only on the value modulo 2^DEPTH (R175 (d)). -/
def Obligations.SetPixelKeepsLowBitsOnly : Prop :=
  ∀ (f : TileFormat) (m : Memory) (x y : Nat) (v v' : Byte),
    v.toNat % 2 ^ f.depth = v'.toNat % 2 ^ f.depth → setPixel f m x y v = setPixel f m x y v'

/-- A planar format and its intertwined sibling hold the same picture in a different byte order (R175 (e)): tiles
whose plane bytes agree have the same colormap. -/
def Obligations.SiblingLayoutsSameColormap : Prop :=
  ∀ (f f' : TileFormat) (l l' : Layout) (m m' : Memory), f.layout = some l → f'.layout = some l' →
    f'.depth = f.depth →
    (∀ p y, p < f.depth → y < 8 → m'.read (planeAddr l' p y) = m.read (planeAddr l p y)) →
    colormap f' m' = colormap f m

/-! ### tile_bitplane_decoder -/

/-- TILE.NEW (R191): a code of 10 or more is illegal; else the zero tile of the format, nothing else changed. That
an illegal code is answered and not refused is the model's choice (log entry 4). -/
def Obligations.TileNewResult : Prop :=
  (∀ w : CmdWord, w.extractLsb' 56 8 = 0x30#8 → decode w = some (.tileNew (w.extractLsb' 48 8))) ∧
  (∀ (f : Byte) (s : State), 10 ≤ f.toNat → exec (.tileNew f) s = .next (answered s (err 7 0x30 f.toNat))) ∧
  (∀ (f : Byte) (fmt : TileFormat) (s : State), TileFormat.ofCode f = some fmt →
    ∃ m : Memory, exec (.tileNew f) s = .next (answered { s with tileFmt := fmt, tile := m } (okWord 0)) ∧
      (∀ k, m.read k = 0x00#8) ∧ colormap fmt m = List.replicate 64 0x00#8)

/-- TILE.LOAD (R192): an illegal code; a payload that is not exactly the format's size; else the payload verbatim,
nothing else changed. That an illegal code is answered and not refused is the model's choice (log entry 4). -/
def Obligations.TileLoadResult : Prop :=
  (∀ w : CmdWord, w.extractLsb' 56 8 = 0x31#8 → decode w = some (.tileLoad (w.extractLsb' 48 8))) ∧
  (∀ (f : Byte) (s : State), 10 ≤ f.toNat → exec (.tileLoad f) s = .next (answered s (err 7 0x31 f.toNat))) ∧
  (∀ (f : Byte) (fmt : TileFormat) (s : State), TileFormat.ofCode f = some fmt →
    (s.din.length ≠ fmt.bytes →
      exec (.tileLoad f) s = .next (answered s (err 1 fmt.bytes s.din.length))) ∧
    (s.din.length = fmt.bytes → ∃ m : Memory,
      exec (.tileLoad f) s = .next (answered { s with tileFmt := fmt, tile := m } (okWord 0)) ∧
      ∀ k, k < fmt.bytes → s.din[k]? = some (m.read k)))

/-- TILE.READ (R193): the BYTES(tile_fmt) storage bytes in offset order; it cannot fail. -/
def Obligations.TileReadResult : Prop :=
  (∀ w : CmdWord, w.extractLsb' 56 8 = 0x32#8 → decode w = some .tileRead) ∧
  (∀ s : State, ∃ es : List Byte, exec .tileRead s = .next (answered s (okOut (.bytes es))) ∧
    es.length = s.tileFmt.bytes ∧ ∀ k, k < s.tileFmt.bytes → es[k]? = some (s.tile.read k))

/-- TILE.GETPIX (R194): x out of range, else y out of range, else the pixel. That x is reported when both are out
of range is the spec's own decision (D19, log entry 12). -/
def Obligations.TileGetPixResult : Prop :=
  (∀ w : CmdWord, w.extractLsb' 56 8 = 0x33#8 →
    decode w = some (.tileGetPix (w.extractLsb' 48 8) (w.extractLsb' 40 8))) ∧
  (∀ (x y : Byte) (s : State),
    (8 ≤ x.toNat → exec (.tileGetPix x y) s = .next (answered s (err 2 x.toNat 8))) ∧
    (x.toNat < 8 → 8 ≤ y.toNat → exec (.tileGetPix x y) s = .next (answered s (err 2 y.toNat 8))) ∧
    (x.toNat < 8 → y.toNat < 8 → exec (.tileGetPix x y) s = .next (answered s (okWord
      (BitVec.ofNat 32 (getPixel s.tileFmt s.tile x.toNat y.toNat).toNat)))))

/-- TILE.SETPIX (R195; the order of the checks and the fields of INVALID_VALUE are the spec's own decisions D19 and
D17, log entries 12 and 13): x, y, then the value checked against LIMIT(tile_fmt); else the pixel is set, every byte
that holds no part of it reads as before, and nothing else changes. -/
def Obligations.TileSetPixResult : Prop :=
  (∀ w : CmdWord, w.extractLsb' 56 8 = 0x34#8 →
    decode w = some (.tileSetPix (w.extractLsb' 48 8) (w.extractLsb' 40 8) (w.extractLsb' 32 8))) ∧
  (∀ (x y v : Byte) (s : State),
    (8 ≤ x.toNat → exec (.tileSetPix x y v) s = .next (answered s (err 2 x.toNat 8))) ∧
    (x.toNat < 8 → 8 ≤ y.toNat → exec (.tileSetPix x y v) s = .next (answered s (err 2 y.toNat 8))) ∧
    (∀ n, x.toNat < 8 → y.toNat < 8 → s.tileFmt.limit config = some n → n ≤ v.toNat →
      exec (.tileSetPix x y v) s = .next (answered s (err 3 v.toNat n))) ∧
    (x.toNat < 8 → y.toNat < 8 → acceptedValue s.tileFmt v → ∃ m : Memory,
      exec (.tileSetPix x y v) s = .next (answered { s with tile := m } (okWord 0)) ∧
      m = setPixel s.tileFmt s.tile x.toNat y.toNat v ∧
      getPixel s.tileFmt m x.toNat y.toNat = v ∧
      ∀ k, ¬ storedByte s.tileFmt x.toNat y.toNat k → m.read k = s.tile.read k))

/-- TILE.DECODE (R196): the 64 pixels in row-major order; it cannot fail. -/
def Obligations.TileDecodeResult : Prop :=
  (∀ w : CmdWord, w.extractLsb' 56 8 = 0x35#8 → decode w = some .tileDecode) ∧
  (∀ s : State, ∃ es : List Byte, exec .tileDecode s = .next (answered s (okOut (.bytes es))) ∧
    es.length = 64 ∧ ∀ i, i < 64 → es[i]? = some (getPixel s.tileFmt s.tile (i % 8) (i / 8)))

/-- TILE.ENCODE (R197), its four outcomes: an illegal code; the first element at or above the limit; a 65th element
after 64 accepted ones; else the tile whose pixels are the elements, then 0, replaces the current one. That
unreached pixels are 0 is the spec's own decision (D27, log entry 15); that an illegal code is answered and not
refused is the model's choice (log entry 4). -/
def Obligations.TileEncodeResult : Prop :=
  (∀ w : CmdWord, w.extractLsb' 56 8 = 0x36#8 → decode w = some (.tileEncode (w.extractLsb' 48 8))) ∧
  (∀ (f : Byte) (s : State), 10 ≤ f.toNat → exec (.tileEncode f) s = .next (answered s (err 7 0x36 f.toNat))) ∧
  (∀ (f : Byte) (fmt : TileFormat) (s : State), TileFormat.ofCode f = some fmt →
    (∀ (k n : Nat) (v : Byte), k < 64 → s.din[k]? = some v → fmt.limit config = some n → n ≤ v.toNat →
      (∀ (j : Nat) (u : Byte), j < k → s.din[j]? = some u → acceptedValue fmt u) →
      exec (.tileEncode f) s = .next (answered s (err 3 v.toNat n))) ∧
    (65 ≤ s.din.length → (∀ (j : Nat) (u : Byte), j < 64 → s.din[j]? = some u → acceptedValue fmt u) →
      exec (.tileEncode f) s = .next (answered s (err 2 8 8))) ∧
    (s.din.length ≤ 64 → (∀ u ∈ s.din, acceptedValue fmt u) → ∃ m : Memory,
      exec (.tileEncode f) s = .next (answered { s with tileFmt := fmt, tile := m } (okWord 0)) ∧
      ∀ x y, x < 8 → y < 8 → getPixel fmt m x y = s.din.getD (8 * y + x) 0))

/-- The round trip of every format (R198 (a)): a colormap of 64 accepted elements, encoded, decodes to itself. -/
def Obligations.EncodeThenDecode : Prop :=
  ∀ (f : Byte) (fmt : TileFormat) (s : State), TileFormat.ofCode f = some fmt → s.din.length = 64 →
    (∀ u ∈ s.din, acceptedValue fmt u) →
    ∃ t, exec (.tileEncode f) s = .next t ∧ t.tileFmt = fmt ∧
      exec .tileDecode t = .next (answered t (okOut (.bytes s.din)))

/-- The other direction (R198 (b)): a tile loaded from bytes, decoded, and the colormap encoded in the same format,
reads as the same bytes; in 8bpp planar when planes 4 to 7 (bytes 32 to 63) are zero, and otherwise the encoding
fails with INVALID_VALUE, whose first field is an element of 16 or more. -/
def Obligations.LoadDecodeEncodeRead : Prop :=
  ∀ (f : Byte) (fmt : TileFormat) (s t s' : State) (cm : List Byte), TileFormat.ofCode f = some fmt →
    s.din.length = fmt.bytes → exec (.tileLoad f) s = .next t →
    exec .tileDecode t = .next (answered t (okOut (.bytes cm))) → s'.din = cm →
    ((fmt = .bpp8Planar → ∀ k, 32 ≤ k → k < 64 → s.din[k]? = some 0x00#8) →
      ∃ t', exec (.tileEncode f) s' = .next t' ∧
        exec .tileRead t' = .next (answered t' (okOut (.bytes s.din)))) ∧
    ((fmt = .bpp8Planar ∧ ∃ k, 32 ≤ k ∧ k < 64 ∧ s.din[k]? ≠ some 0x00#8) →
      ∃ v : Byte, 16 ≤ v.toNat ∧ exec (.tileEncode f) s' = .next (answered s' (err 3 v.toNat 16)))

/-- TILE.LOAD then TILE.READ returns the payload unchanged (R198 (d)). -/
def Obligations.LoadThenRead : Prop :=
  ∀ (f : Byte) (fmt : TileFormat) (s : State), TileFormat.ofCode f = some fmt → s.din.length = fmt.bytes →
    ∃ t, exec (.tileLoad f) s = .next t ∧ exec .tileRead t = .next (answered t (okOut (.bytes s.din)))

/-! ### pixel_pipeline_composition -/

/-- PIPE.NATIVE (R221): with 16 entries, the first pixel of 16 or more in row-major order fails it with no output;
else one palette entry per pixel, all 16 bits. A read of an entry never written since reset gives some value (R34),
and only the model's own count of free values may change (log entry 3). Nothing else changes. -/
def Obligations.PipeNativeResult : Prop :=
  (∀ w : CmdWord, w.extractLsb' 56 8 = 0x40#8 → decode w = some .pipeNative) ∧
  (∀ (s : State) (k : Nat) (v : Byte), s.palSize = .pal16 → (colormap s.tileFmt s.tile)[k]? = some v →
    16 ≤ v.toNat → (∀ (j : Nat) (u : Byte), j < k → (colormap s.tileFmt s.tile)[j]? = some u → u.toNat < 16) →
    exec .pipeNative s = .next (answered s (err 4 v.toNat 16))) ∧
  (∀ s : State, (s.palSize = .pal256 ∨ ∀ u ∈ colormap s.tileFmt s.tile, u.toNat < 16) →
    ∃ (es : List Color15) (n : Nat),
      exec .pipeNative s = .next (answered { s with draws := n } (okOut (.color15s es))) ∧ es.length = 64 ∧
      ∀ (k : Nat) (u : Byte) (c : Color15), (colormap s.tileFmt s.tile)[k]? = some u →
        s.pal.entry u.toNat = some c → es[k]? = some c)

/-- PIPE.DISPLAY (R222): it fails exactly when PIPE.NATIVE does, with the same error; else each element is the
conversion `to24` of PIPE.NATIVE's. -/
def Obligations.PipeDisplayResult : Prop :=
  (∀ w : CmdWord, w.extractLsb' 56 8 = 0x41#8 → decode w = some .pipeDisplay) ∧
  (∀ s : State,
    (∃ e, e.ok = false ∧ exec .pipeNative s = .next (answered s e) ∧ exec .pipeDisplay s = .next (answered s e)) ∨
    (∃ (es : List Color15) (n : Nat),
      exec .pipeNative s = .next (answered { s with draws := n } (okOut (.color15s es))) ∧
      exec .pipeDisplay s = .next (answered { s with draws := n } (okOut (.color24s (es.map to24)))))) ∧
  (∀ s : State, (s.palSize = .pal256 ∨ ∀ u ∈ colormap s.tileFmt s.tile, u.toNat < 16) →
    ∃ (es : List Color24) (n : Nat),
      exec .pipeDisplay s = .next (answered { s with draws := n } (okOut (.color24s es))) ∧ es.length = 64)

/-- PIPE.DIRECT (R223, R224): each element is the direct colour of its pixel: red 2(c mod 8) + pa[0], green
2((c div 8) mod 8) + pa[1], blue 4(c div 64) + pa[2], bit 15 zero. It cannot fail and reads no palette. -/
def Obligations.PipeDirectResult : Prop :=
  (∀ w : CmdWord, w.extractLsb' 56 8 = 0x42#8 → decode w = some (.pipeDirect (w.extractLsb' 48 3))) ∧
  (∀ (pa : BitVec 3) (s : State), ∃ es : List Color15,
    exec (.pipeDirect pa) s = .next (answered s (okOut (.color15s es))) ∧ es.length = 64 ∧
    ∀ (k : Nat) (c : Byte), (colormap s.tileFmt s.tile)[k]? = some c → es[k]? = some (BitVec.ofNat 16
      ((2 * (c.toNat % 8) + pa.toNat % 2) + 32 * (2 * (c.toNat / 8 % 8) + pa.toNat / 2 % 2) +
        1024 * (4 * (c.toNat / 64) + pa.toNat / 4))))
end

