-- ==== Sys2Proof/Laws/State.lean ====
section
/-! SUPPORT. One lemma per field per update of the state, so that no later proof unfolds a record update;
and the two endings of a command in the claims' terms. -/

namespace Sys2Proof.Machine

/-! ### putTile -/

@[simp] theorem State.putTile_tileFmt (s : State) (f : TileFormat) (m : Memory) :
    (s.putTile f m).tileFmt = f := rfl

@[simp] theorem State.putTile_tile (s : State) (f : TileFormat) (m : Memory) :
    (s.putTile f m).tile = m := rfl

@[simp] theorem State.putTile_palSize (s : State) (f : TileFormat) (m : Memory) :
    (s.putTile f m).palSize = s.palSize := rfl

@[simp] theorem State.putTile_pal (s : State) (f : TileFormat) (m : Memory) :
    (s.putTile f m).pal = s.pal := rfl

@[simp] theorem State.putTile_inputs (s : State) (f : TileFormat) (m : Memory) :
    (s.putTile f m).inputs = s.inputs := rfl

@[simp] theorem State.putTile_responses (s : State) (f : TileFormat) (m : Memory) :
    (s.putTile f m).responses = s.responses := rfl

@[simp] theorem State.putTile_draws (s : State) (f : TileFormat) (m : Memory) :
    (s.putTile f m).draws = s.draws := rfl

/-! ### putPalette -/

@[simp] theorem State.putPalette_tileFmt (s : State) (z : PalSize) (p : Palette) :
    (s.putPalette z p).tileFmt = s.tileFmt := rfl

@[simp] theorem State.putPalette_tile (s : State) (z : PalSize) (p : Palette) :
    (s.putPalette z p).tile = s.tile := rfl

@[simp] theorem State.putPalette_palSize (s : State) (z : PalSize) (p : Palette) :
    (s.putPalette z p).palSize = z := rfl

@[simp] theorem State.putPalette_pal (s : State) (z : PalSize) (p : Palette) :
    (s.putPalette z p).pal = p := rfl

@[simp] theorem State.putPalette_inputs (s : State) (z : PalSize) (p : Palette) :
    (s.putPalette z p).inputs = s.inputs := rfl

@[simp] theorem State.putPalette_responses (s : State) (z : PalSize) (p : Palette) :
    (s.putPalette z p).responses = s.responses := rfl

@[simp] theorem State.putPalette_draws (s : State) (z : PalSize) (p : Palette) :
    (s.putPalette z p).draws = s.draws := rfl

/-! ### putEntry -/

@[simp] theorem State.putEntry_tileFmt (s : State) (i : Nat) (c : Color15) :
    (s.putEntry i c).tileFmt = s.tileFmt := rfl

@[simp] theorem State.putEntry_tile (s : State) (i : Nat) (c : Color15) :
    (s.putEntry i c).tile = s.tile := rfl

@[simp] theorem State.putEntry_palSize (s : State) (i : Nat) (c : Color15) :
    (s.putEntry i c).palSize = s.palSize := rfl

@[simp] theorem State.putEntry_pal (s : State) (i : Nat) (c : Color15) :
    (s.putEntry i c).pal = s.pal.write i c := rfl

@[simp] theorem State.putEntry_inputs (s : State) (i : Nat) (c : Color15) :
    (s.putEntry i c).inputs = s.inputs := rfl

@[simp] theorem State.putEntry_responses (s : State) (i : Nat) (c : Color15) :
    (s.putEntry i c).responses = s.responses := rfl

@[simp] theorem State.putEntry_draws (s : State) (i : Nat) (c : Color15) :
    (s.putEntry i c).draws = s.draws := rfl

/-! ### putDraws -/

@[simp] theorem State.putDraws_tileFmt (s : State) (n : Nat) :
    (s.putDraws n).tileFmt = s.tileFmt := rfl

@[simp] theorem State.putDraws_tile (s : State) (n : Nat) :
    (s.putDraws n).tile = s.tile := rfl

@[simp] theorem State.putDraws_palSize (s : State) (n : Nat) :
    (s.putDraws n).palSize = s.palSize := rfl

@[simp] theorem State.putDraws_pal (s : State) (n : Nat) :
    (s.putDraws n).pal = s.pal := rfl

@[simp] theorem State.putDraws_inputs (s : State) (n : Nat) :
    (s.putDraws n).inputs = s.inputs := rfl

@[simp] theorem State.putDraws_responses (s : State) (n : Nat) :
    (s.putDraws n).responses = s.responses := rfl

@[simp] theorem State.putDraws_draws (s : State) (n : Nat) :
    (s.putDraws n).draws = n := rfl

/-! ### respond -/

@[simp] theorem State.respond_tileFmt (s : State) (r : Response) :
    (s.respond r).tileFmt = s.tileFmt := rfl

@[simp] theorem State.respond_tile (s : State) (r : Response) :
    (s.respond r).tile = s.tile := rfl

@[simp] theorem State.respond_palSize (s : State) (r : Response) :
    (s.respond r).palSize = s.palSize := rfl

@[simp] theorem State.respond_pal (s : State) (r : Response) :
    (s.respond r).pal = s.pal := rfl

@[simp] theorem State.respond_inputs (s : State) (r : Response) :
    (s.respond r).inputs = s.inputs.tail := rfl

@[simp] theorem State.respond_responses (s : State) (r : Response) :
    (s.respond r).responses = s.responses ++ [r] := rfl

@[simp] theorem State.respond_draws (s : State) (r : Response) :
    (s.respond r).draws = s.draws := rfl

/-! ### takeReset -/

@[simp] theorem State.takeReset_tileFmt (s : State) :
    (s.takeReset).tileFmt = .bpp1 := rfl

@[simp] theorem State.takeReset_tile (s : State) :
    (s.takeReset).tile = [] := rfl

@[simp] theorem State.takeReset_palSize (s : State) :
    (s.takeReset).palSize = .pal16 := rfl

@[simp] theorem State.takeReset_pal (s : State) :
    (s.takeReset).pal = [] := rfl

@[simp] theorem State.takeReset_inputs (s : State) :
    (s.takeReset).inputs = s.inputs.tail := rfl

@[simp] theorem State.takeReset_responses (s : State) :
    (s.takeReset).responses = s.responses := rfl

@[simp] theorem State.takeReset_draws (s : State) :
    (s.takeReset).draws = s.draws := rfl

/-! ### The inputs decide the payload -/

/-- The payload is the one of the command at the port. -/
theorem State.din_of_command {s : State} {c : Command} {rest : List Input} (h : s.inputs = .command c :: rest) :
    s.din = c.din.bytes := by
  simp [State.din, h]

/-- Two states with the same inputs have the same payload. -/
theorem State.din_congr {s t : State} (h : t.inputs = s.inputs) : t.din = s.din := by
  simp [State.din, h]

@[simp] theorem State.putTile_din (s : State) (f : TileFormat) (m : Memory) : (s.putTile f m).din = s.din := rfl

@[simp] theorem State.putPalette_din (s : State) (z : PalSize) (p : Palette) : (s.putPalette z p).din = s.din := rfl

@[simp] theorem State.putEntry_din (s : State) (i : Nat) (c : Color15) : (s.putEntry i c).din = s.din := rfl

@[simp] theorem State.putDraws_din (s : State) (n : Nat) : (s.putDraws n).din = s.din := rfl

/-! ### How a command ends, in the claims' terms -/

/-- Answering a command changes the port and the responses, and nothing else. -/
theorem State.respond_eq_answered (s : State) (r : Response) : s.respond r = answered s r := rfl

/-- Everything `reply` can do: it answers OK with the result word and the output, in the state it is given. -/
theorem State.reply_eq (s : State) (w : BitVec 32) (d : Dout) :
    s.reply w d = .next (answered s (Response.success w d)) := rfl

/-- Everything `raise` can do: it answers with the error, in the state the command found (R250). -/
theorem State.raise_eq (s : State) (e : CmdError) : s.raise e = .next (answered s (Response.failure e)) := rfl

/-- A success with a result word and no output. -/
@[simp] theorem Response.success_empty (w : BitVec 32) : Response.success w .empty = okWord w := rfl

/-- A success with an output and no result word. -/
@[simp] theorem Response.success_zero (d : Dout) : Response.success 0 d = okOut d := rfl

@[simp] theorem Response.success_ok (w : BitVec 32) (d : Dout) : (Response.success w d).ok = true := rfl

@[simp] theorem Response.failure_ok (e : CmdError) : (Response.failure e).ok = false := rfl

end Sys2Proof.Machine
end

