-- ==== Sys2Proof/Laws/Cells.lean ====
section
/-! SUPPORT. The laws of the sparse lists behind the tile bytes and the palette entries: reading after a
write, the canonical form kept by every operation, equal contents give equal lists. -/

namespace Sys2Proof.Machine

variable {α : Type}

/-! ### Reading after a change -/

@[simp] theorem Cells.find_put_same (a : Nat) (v : α) (m : List (Nat × α)) :
    Cells.find (Cells.put a v m) a = some v := by
  induction m with
  | nil => simp [Cells.put, Cells.find]
  | cons c cs ih =>
    simp only [Cells.put]
    split
    · simp [Cells.find]
    · split
      · simp [Cells.find]
      · rename_i hne _
        simp [Cells.find, hne, ih]

theorem Cells.find_put_other {a b : Nat} (h : b ≠ a) (v : α) (m : List (Nat × α)) :
    Cells.find (Cells.put a v m) b = Cells.find m b := by
  induction m with
  | nil => simp [Cells.put, Cells.find, Ne.symm h]
  | cons c cs ih =>
    simp only [Cells.put]
    split
    · rename_i hc
      have : ¬ c.1 = b := by omega
      simp [Cells.find, this, Ne.symm h]
    · split
      · simp [Cells.find, Ne.symm h]
      · simp [Cells.find, ih]

@[simp] theorem Cells.find_erase_same (a : Nat) (m : List (Nat × α)) : Cells.find (Cells.erase a m) a = none := by
  induction m with
  | nil => simp [Cells.erase, Cells.find]
  | cons c cs ih =>
    simp only [Cells.erase]
    split
    · exact ih
    · rename_i hne
      simp [Cells.find, hne, ih]

theorem Cells.find_erase_other {a b : Nat} (h : b ≠ a) (m : List (Nat × α)) :
    Cells.find (Cells.erase a m) b = Cells.find m b := by
  induction m with
  | nil => simp [Cells.erase, Cells.find]
  | cons c cs ih =>
    simp only [Cells.erase]
    split
    · rename_i hc
      have : ¬ c.1 = b := by omega
      simp [Cells.find, this, ih]
    · simp [Cells.find, ih]

/-! ### Properties of every entry, through the operations -/

theorem Cells.mem_put {a : Nat} {v : α} {m : List (Nat × α)} {c : Nat × α} (h : c ∈ Cells.put a v m) :
    c = (a, v) ∨ c ∈ m := by
  induction m with
  | nil => simpa [Cells.put] using h
  | cons d ds ih =>
    simp only [Cells.put] at h
    split at h
    · rcases List.mem_cons.1 h with h | h
      · exact .inl h
      · exact .inr (List.mem_cons_of_mem _ h)
    · split at h
      · rcases List.mem_cons.1 h with h | h
        · exact .inl h
        · exact .inr h
      · rcases List.mem_cons.1 h with h | h
        · exact .inr (h ▸ List.mem_cons_self)
        · exact (ih h).imp id (List.mem_cons_of_mem _)

theorem Cells.mem_erase {a : Nat} {m : List (Nat × α)} {c : Nat × α} (h : c ∈ Cells.erase a m) : c ∈ m := by
  induction m with
  | nil => simp [Cells.erase] at h
  | cons d ds ih =>
    simp only [Cells.erase] at h
    split at h
    · exact List.mem_cons_of_mem _ (ih h)
    · rcases List.mem_cons.1 h with h | h
      · exact h ▸ List.mem_cons_self
      · exact List.mem_cons_of_mem _ (ih h)

theorem Cells.below_iff {n : Nat} {m : List (Nat × α)} : Cells.below n m = true ↔ ∀ c ∈ m, c.1 < n := by
  simp [Cells.below, List.all_eq_true]

theorem Cells.below_put {n a : Nat} {v : α} {m : List (Nat × α)} (ha : a < n) (h : Cells.below n m = true) :
    Cells.below n (Cells.put a v m) = true := by
  rw [Cells.below_iff] at *
  intro c hc
  rcases Cells.mem_put hc with rfl | hc
  · exact ha
  · exact h c hc

theorem Cells.below_erase {n a : Nat} {m : List (Nat × α)} (h : Cells.below n m = true) :
    Cells.below n (Cells.erase a m) = true := by
  rw [Cells.below_iff] at *
  exact fun c hc => h c (Cells.mem_erase hc)

theorem Cells.below_mono {n k : Nat} (hnk : n ≤ k) {m : List (Nat × α)} (h : Cells.below n m = true) :
    Cells.below k m = true := by
  rw [Cells.below_iff] at *
  exact fun c hc => Nat.lt_of_lt_of_le (h c hc) hnk

/-! ### The keys stay in order -/

theorem Cells.sorted_cons {c : Nat × α} {cs : List (Nat × α)} :
    Cells.sorted (c :: cs) = true ↔ (∀ d ∈ cs, c.1 < d.1) ∧ Cells.sorted cs = true := by
  simp [Cells.sorted, List.all_eq_true]

theorem Cells.sorted_put {a : Nat} {v : α} {m : List (Nat × α)} (h : Cells.sorted m = true) :
    Cells.sorted (Cells.put a v m) = true := by
  induction m with
  | nil => simp [Cells.put, Cells.sorted]
  | cons c cs ih =>
    obtain ⟨hc, hcs⟩ := Cells.sorted_cons.1 h
    simp only [Cells.put]
    split
    · rename_i hca
      exact Cells.sorted_cons.2 ⟨fun d hd => hca ▸ hc d hd, hcs⟩
    · split
      · rename_i hlt
        refine Cells.sorted_cons.2 ⟨fun d hd => ?_, h⟩
        rcases List.mem_cons.1 hd with rfl | hd
        · exact hlt
        · exact Nat.lt_trans hlt (hc d hd)
      · refine Cells.sorted_cons.2 ⟨fun d hd => ?_, ih hcs⟩
        rcases Cells.mem_put hd with rfl | hd
        · simp only; omega
        · exact hc d hd

theorem Cells.sorted_erase {a : Nat} {m : List (Nat × α)} (h : Cells.sorted m = true) :
    Cells.sorted (Cells.erase a m) = true := by
  induction m with
  | nil => simp [Cells.erase, Cells.sorted]
  | cons c cs ih =>
    obtain ⟨hc, hcs⟩ := Cells.sorted_cons.1 h
    simp only [Cells.erase]
    split
    · exact ih hcs
    · exact Cells.sorted_cons.2 ⟨fun d hd => hc d (Cells.mem_erase hd), ih hcs⟩

/-! ### Contents and lists -/

/-- Nothing is found at a key below every key of the list. -/
theorem Cells.find_none_of_lt {a : Nat} {m : List (Nat × α)} (h : ∀ d ∈ m, a < d.1) : Cells.find m a = none := by
  induction m with
  | nil => rfl
  | cons c cs ih =>
    have hc := h c List.mem_cons_self
    have : ¬ c.1 = a := by omega
    simp [Cells.find, this, ih fun d hd => h d (List.mem_cons_of_mem _ hd)]

/-- Nothing is found at a key at or above the bound of the list. -/
theorem Cells.find_none_of_below {n a : Nat} {m : List (Nat × α)} (h : Cells.below n m = true) (ha : n ≤ a) :
    Cells.find m a = none := by
  rw [Cells.below_iff] at h
  induction m with
  | nil => rfl
  | cons c cs ih =>
    have hc := h c List.mem_cons_self
    have : ¬ c.1 = a := by omega
    simp [Cells.find, this, ih fun d hd => h d (List.mem_cons_of_mem _ hd)]

/-- An entry of a list in order is found at its key. -/
theorem Cells.find_of_mem {m : List (Nat × α)} (h : Cells.sorted m = true) {c : Nat × α} (hc : c ∈ m) :
    Cells.find m c.1 = some c.2 := by
  induction m with
  | nil => simp at hc
  | cons d ds ih =>
    obtain ⟨hd, hds⟩ := Cells.sorted_cons.1 h
    rcases List.mem_cons.1 hc with rfl | hc
    · simp [Cells.find]
    · have := hd c hc
      have : ¬ d.1 = c.1 := by omega
      simp [Cells.find, this, ih hds hc]

/-- What is found is listed. -/
theorem Cells.mem_of_find {m : List (Nat × α)} {a : Nat} {v : α} (h : Cells.find m a = some v) : (a, v) ∈ m := by
  induction m with
  | nil => simp [Cells.find] at h
  | cons c cs ih =>
    simp only [Cells.find] at h
    split at h
    · rename_i hca
      obtain rfl := Option.some.inj h
      exact hca ▸ List.mem_cons_self
    · exact List.mem_cons_of_mem _ (ih h)

/-- Two lists in order with the same contents are the same list. -/
theorem Cells.ext {m m' : List (Nat × α)} (h : Cells.sorted m = true) (h' : Cells.sorted m' = true)
    (hf : ∀ a, Cells.find m a = Cells.find m' a) : m = m' := by
  induction m generalizing m' with
  | nil =>
    cases m' with
    | nil => rfl
    | cons c cs =>
      have := hf c.1
      simp [Cells.find] at this
  | cons c cs ih =>
    obtain ⟨hc, hcs⟩ := Cells.sorted_cons.1 h
    cases m' with
    | nil =>
      have := hf c.1
      simp [Cells.find] at this
    | cons d ds =>
      obtain ⟨hd, hds⟩ := Cells.sorted_cons.1 h'
      have key : c.1 = d.1 := by
        rcases Nat.lt_trichotomy c.1 d.1 with hlt | heq | hgt
        · have h1 := hf c.1
          have : Cells.find (d :: ds) c.1 = none := Cells.find_none_of_lt fun e he => by
            rcases List.mem_cons.1 he with rfl | he
            · exact hlt
            · exact Nat.lt_trans hlt (hd e he)
          rw [this] at h1
          simp [Cells.find] at h1
        · exact heq
        · have h1 := hf d.1
          have : Cells.find (c :: cs) d.1 = none := Cells.find_none_of_lt fun e he => by
            rcases List.mem_cons.1 he with rfl | he
            · exact hgt
            · exact Nat.lt_trans hgt (hc e he)
          rw [this] at h1
          simp [Cells.find] at h1
      have hv : c.2 = d.2 := by
        have := hf c.1
        simpa [Cells.find, key] using this
      have hcd : c = d := Prod.ext key hv
      subst hcd
      congr 1
      refine ih hcs hds fun a => ?_
      by_cases ha : c.1 = a
      · subst ha
        rw [Cells.find_none_of_lt hc, Cells.find_none_of_lt hd]
      · simpa [Cells.find, ha] using hf a

end Sys2Proof.Machine
end

