-- ==== Sys2Proof/Laws/Decode.lean ====
section
/-! SUPPORT. The fields of a word put together from its fields, and the operands of the two narrowed forms. -/

namespace Sys2Proof

/-- Appending is multiplying by a power of two and adding. -/
theorem toNat_append_add {n m : Nat} (x : BitVec n) (y : BitVec m) :
    (x ++ y).toNat = x.toNat * 2 ^ m + y.toNat := by
  rw [BitVec.toNat_append, Nat.shiftLeft_eq, Nat.mul_comm, ← Nat.two_pow_add_eq_or_of_lt y.isLt]

/-- The word as the number its five fields make (R81). -/
theorem toNat_mkWord (o a b c : Byte) (w : BitVec 32) : (mkWord o a b c w).toNat =
    o.toNat * 2 ^ 56 + a.toNat * 2 ^ 48 + b.toNat * 2 ^ 40 + c.toNat * 2 ^ 32 + w.toNat := by
  simp only [mkWord, toNat_append_add]
  omega

/-- A field of a word is a quotient and a remainder of its number. -/
theorem toNat_extract {n : Nat} (x : BitVec n) (lo len : Nat) :
    (x.extractLsb' lo len).toNat = x.toNat / 2 ^ lo % 2 ^ len := by
  rw [BitVec.extractLsb'_toNat, Nat.shiftRight_eq_div_pow]

@[simp] theorem opcField_mkWord (o a b c : Byte) (w : BitVec 32) : opcField (mkWord o a b c w) = o := by
  apply BitVec.eq_of_toNat_eq
  rw [opcField, toNat_extract, toNat_mkWord]
  omega

@[simp] theorem aField_mkWord (o a b c : Byte) (w : BitVec 32) : aField (mkWord o a b c w) = a := by
  apply BitVec.eq_of_toNat_eq
  rw [aField, toNat_extract, toNat_mkWord]
  omega

@[simp] theorem bField_mkWord (o a b c : Byte) (w : BitVec 32) : bField (mkWord o a b c w) = b := by
  apply BitVec.eq_of_toNat_eq
  rw [bField, toNat_extract, toNat_mkWord]
  omega

@[simp] theorem cField_mkWord (o a b c : Byte) (w : BitVec 32) : cField (mkWord o a b c w) = c := by
  apply BitVec.eq_of_toNat_eq
  rw [cField, toNat_extract, toNat_mkWord]
  omega

@[simp] theorem wField_mkWord (o a b c : Byte) (w : BitVec 32) : wField (mkWord o a b c w) = w := by
  apply BitVec.eq_of_toNat_eq
  rw [wField, toNat_extract, toNat_mkWord]
  omega

/-- A Color15 operand comes back from field W. -/
@[simp] theorem color15Field_mkWord (o a b c : Byte) (v : Color15) :
    color15Field (mkWord o a b c (color15Operand v)) = v := by
  apply BitVec.eq_of_toNat_eq
  rw [color15Field, wField_mkWord, toNat_extract, color15Operand, BitVec.toNat_setWidth]
  omega

/-- A palette argument comes back from field A. -/
@[simp] theorem paletteArgField_mkWord (o b c : Byte) (w : BitVec 32) (pa : BitVec 3) :
    paletteArgField (mkWord o (pa.setWidth 8) b c w) = pa := by
  apply BitVec.eq_of_toNat_eq
  rw [paletteArgField, aField_mkWord, toNat_extract, BitVec.toNat_setWidth]
  omega

/-- The fields of a word, put together again, are the word. -/
theorem mkWord_fields (w : CmdWord) : mkWord (opcField w) (aField w) (bField w) (cField w) (wField w) = w := by
  apply BitVec.eq_of_toNat_eq
  simp only [toNat_mkWord, opcField, aField, bField, cField, wField, toNat_extract]
  omega

end Sys2Proof
end

