-- ==== Sys2Proof/Laws/Memory.lean ====
section
/-! SUPPORT. The laws of the tile bytes and of the palette entries: reading after a write, the canonical form
kept by every operation, the contents a payload gives. -/

namespace Sys2Proof.Machine

/-! ### The tile bytes -/

theorem Memory.wf_iff {m : Memory} :
    Memory.wf m = true ↔ Cells.sorted m = true ∧ ∀ c ∈ m, c.2 ≠ Memory.unlisted := by
  simp [Memory.wf, List.all_eq_true]

@[simp] theorem Memory.read_zero (k : Nat) : Memory.zero.read k = 0x00#8 := rfl

@[simp] theorem Memory.read_write_same (m : Memory) (k : Nat) (v : Byte) : (m.write k v).read k = v := by
  unfold Memory.write Memory.read
  split
  · simp [*]
  · simp

theorem Memory.read_write_other {k a : Nat} (h : a ≠ k) (m : Memory) (v : Byte) :
    (m.write k v).read a = m.read a := by
  unfold Memory.write Memory.read
  split
  · rw [Cells.find_erase_other h]
  · rw [Cells.find_put_other h]

/-- Everything a write can do, read back at any offset. -/
theorem Memory.read_write (m : Memory) (k a : Nat) (v : Byte) :
    (m.write k v).read a = if a = k then v else m.read a := by
  split
  · rename_i h
    simp [h]
  · rename_i h
    exact Memory.read_write_other h m v

/-- The empty tile is in the canonical form. -/
theorem Memory.zero_wf : Memory.wf Memory.zero = true := rfl

/-- A write keeps the canonical form. -/
theorem Memory.write_wf {m : Memory} (h : Memory.wf m = true) (k : Nat) (v : Byte) :
    Memory.wf (m.write k v) = true := by
  rw [Memory.wf_iff] at *
  unfold Memory.write
  split
  · exact ⟨Cells.sorted_erase h.1, fun c hc => h.2 c (Cells.mem_erase hc)⟩
  · rename_i hv
    refine ⟨Cells.sorted_put h.1, fun c hc => ?_⟩
    rcases Cells.mem_put hc with rfl | hc
    · exact hv
    · exact h.2 c hc

/-- A write below a bound keeps the bound. -/
theorem Memory.write_below {n k : Nat} (hk : k < n) {m : Memory} (h : Cells.below n m = true) (v : Byte) :
    Cells.below n (m.write k v) = true := by
  unfold Memory.write
  split
  · exact Cells.below_erase h
  · exact Cells.below_put hk h

/-- Two tiles in the canonical form that read the same everywhere are the same data. -/
theorem Memory.ext {m m' : Memory} (h : Memory.wf m = true) (h' : Memory.wf m' = true)
    (hr : ∀ k, m.read k = m'.read k) : m = m' := by
  rw [Memory.wf_iff] at h h'
  refine Cells.ext h.1 h'.1 fun a => ?_
  have ha := hr a
  unfold Memory.read at ha
  cases e : Cells.find m a with
  | none =>
    cases e' : Cells.find m' a with
    | none => rfl
    | some v =>
      rw [e, e'] at ha
      exact absurd ha.symm (h'.2 _ (Cells.mem_of_find e'))
  | some v =>
    cases e' : Cells.find m' a with
    | none =>
      rw [e, e'] at ha
      exact absurd ha (h.2 _ (Cells.mem_of_find e))
    | some v' =>
      rw [e, e'] at ha
      simpa using ha

theorem Memory.ofBytesFrom_read (bs : List Byte) (k a : Nat) :
    (Memory.ofBytesFrom k bs).read a = if k ≤ a then bs.getD (a - k) 0x00#8 else 0x00#8 := by
  induction bs generalizing k with
  | nil => simp [Memory.ofBytesFrom]
  | cons b bs ih =>
    simp only [Memory.ofBytesFrom, Memory.read_write, ih]
    by_cases h : a = k
    · simp [h]
    · by_cases hk : k ≤ a
      · have e : a - k = (a - (k + 1)) + 1 := by omega
        have : k + 1 ≤ a := by omega
        simp [h, hk, this, e]
      · have : ¬ k + 1 ≤ a := by omega
        simp [h, hk, this]

/-- The bytes of a payload are the tile's, at their offsets (R51). -/
theorem Memory.ofBytes_read (bs : List Byte) (a : Nat) : (Memory.ofBytes bs).read a = bs.getD a 0x00#8 := by
  simp [Memory.ofBytes, Memory.ofBytesFrom_read]

theorem Memory.ofBytesFrom_wf (bs : List Byte) (k : Nat) : Memory.wf (Memory.ofBytesFrom k bs) = true := by
  induction bs generalizing k with
  | nil => exact Memory.zero_wf
  | cons b bs ih => exact Memory.write_wf (ih (k + 1)) k b

theorem Memory.ofBytesFrom_below (bs : List Byte) (k : Nat) :
    Cells.below (k + bs.length) (Memory.ofBytesFrom k bs) = true := by
  induction bs generalizing k with
  | nil => rfl
  | cons b bs ih =>
    have := ih (k + 1)
    have e : k + 1 + bs.length = k + (b :: bs).length := by simp; omega
    rw [e] at this
    exact Memory.write_below (by simp) this b

/-- A payload as tile bytes is in the canonical form. -/
theorem Memory.ofBytes_wf (bs : List Byte) : Memory.wf (Memory.ofBytes bs) = true :=
  Memory.ofBytesFrom_wf bs 0

/-- A payload as tile bytes lists no offset beyond the payload. -/
theorem Memory.ofBytes_below (bs : List Byte) : Cells.below bs.length (Memory.ofBytes bs) = true := by
  simpa [Memory.ofBytes] using Memory.ofBytesFrom_below bs 0

@[simp] theorem Memory.toBytes_length (m : Memory) (n : Nat) : (m.toBytes n).length = n := by
  simp [Memory.toBytes]

/-- Element `k` of the bytes read out is `T[k]`. -/
theorem Memory.toBytes_getElem? (m : Memory) {n k : Nat} (h : k < n) : (m.toBytes n)[k]? = some (m.read k) := by
  simp [Memory.toBytes, h]

/-! ### The palette entries -/

@[simp] theorem Palette.entry_write_same (p : Palette) (i : Nat) (c : Color15) : (p.write i c).entry i = some c := by
  simp [Palette.write, Palette.entry]

theorem Palette.entry_write_other {i j : Nat} (h : j ≠ i) (p : Palette) (c : Color15) :
    (p.write i c).entry j = p.entry j := by
  simp [Palette.write, Palette.entry, Cells.find_put_other h]

/-- A write keeps the canonical form. -/
theorem Palette.write_wf {p : Palette} (h : Palette.wf p = true) (i : Nat) (c : Color15) :
    Palette.wf (p.write i c) = true :=
  Cells.sorted_put h

theorem Palette.write_below {n i : Nat} (hi : i < n) {p : Palette} (h : Cells.below n p = true) (c : Color15) :
    Cells.below n (p.write i c) = true :=
  Cells.below_put hi h

theorem Palette.ofColorsFrom_ge (cs : List Color15) (i : Nat) : ∀ e ∈ Palette.ofColorsFrom i cs, i ≤ e.1 := by
  induction cs generalizing i with
  | nil => simp [Palette.ofColorsFrom]
  | cons c cs ih =>
    intro e he
    rcases List.mem_cons.1 he with rfl | he
    · exact Nat.le_refl i
    · exact Nat.le_of_succ_le (ih (i + 1) e he)

theorem Palette.ofColorsFrom_wf (cs : List Color15) (i : Nat) : Palette.wf (Palette.ofColorsFrom i cs) = true := by
  induction cs generalizing i with
  | nil => rfl
  | cons c cs ih => exact Cells.sorted_cons.2 ⟨fun e he => Palette.ofColorsFrom_ge cs (i + 1) e he, ih (i + 1)⟩

theorem Palette.ofColorsFrom_below (cs : List Color15) (i : Nat) :
    Cells.below (i + cs.length) (Palette.ofColorsFrom i cs) = true := by
  rw [Cells.below_iff]
  induction cs generalizing i with
  | nil => simp [Palette.ofColorsFrom]
  | cons c cs ih =>
    intro e he
    rcases List.mem_cons.1 he with rfl | he
    · simp
    · have := ih (i + 1) e he
      simp only [List.length_cons]
      omega

theorem Palette.ofColorsFrom_entry (cs : List Color15) (i j : Nat) :
    (Palette.ofColorsFrom i cs).entry j = if i ≤ j then cs[j - i]? else none := by
  induction cs generalizing i with
  | nil => simp [Palette.ofColorsFrom, Palette.entry, Cells.find]
  | cons c cs ih =>
    have ih := ih (i + 1)
    simp only [Palette.entry] at ih
    simp only [Palette.ofColorsFrom, Palette.entry, Cells.find, ih]
    by_cases h : i = j
    · simp [h]
    · by_cases hij : i ≤ j
      · have e : j - i = (j - (i + 1)) + 1 := by omega
        have : i + 1 ≤ j := by omega
        simp [h, hij, this, e]
      · have : ¬ i + 1 ≤ j := by omega
        simp [h, hij, this]

/-- Entry `j` of a palette made from its colours is colour `j`. -/
theorem Palette.ofColors_entry (cs : List Color15) (j : Nat) : (Palette.ofColors cs).entry j = cs[j]? := by
  simp [Palette.ofColors, Palette.ofColorsFrom_entry]

theorem Palette.ofColors_wf (cs : List Color15) : Palette.wf (Palette.ofColors cs) = true :=
  Palette.ofColorsFrom_wf cs 0

theorem Palette.ofColors_below (cs : List Color15) : Cells.below cs.length (Palette.ofColors cs) = true := by
  simpa [Palette.ofColors] using Palette.ofColorsFrom_below cs 0

/-- Everything one read of a palette entry can do: give the written entry, or draw one free value. -/
theorem Palette.read_cases (p : Palette) (n i : Nat) :
    (∃ c, p.entry i = some c ∧ p.read n i = (c, n)) ∨
      (p.entry i = none ∧ p.read n i = (Config.freeColor n, n + 1)) := by
  unfold Palette.read
  cases p.entry i with
  | none => exact .inr ⟨rfl, rfl⟩
  | some c => exact .inl ⟨c, rfl, rfl⟩

/-- One colour is read for each index. -/
theorem Palette.readAll_length (p : Palette) (is : List Byte) (n : Nat) : (p.readAll n is).1.length = is.length := by
  induction is generalizing n with
  | nil => rfl
  | cons i is ih => simp [Palette.readAll, ih]

end Sys2Proof.Machine
end

