-- ==== Sys2Proof/Laws/Formats.lean ====
section
/-! SUPPORT. Where the plane bytes of the ten formats lie, and the canonical form through the pixel
functions, the scan of TILE.ENCODE and the palette payload. -/

namespace Sys2Proof.Machine

/-- A plane byte of a bit-plane format is a byte of the tile. -/
theorem planeAddr_lt {f : TileFormat} {l : Layout} (hl : f.layout = some l) {p y : Nat} (hp : p < f.depth)
    (hy : y < 8) : planeAddr l p y < f.bytes := by
  cases f <;> simp only [TileFormat.layout, Option.some.injEq, reduceCtorEq] at hl <;> subst hl <;>
    simp only [TileFormat.depth] at hp <;>
    simp only [planeAddr, planarAddr, intertwinedAddr, TileFormat.bytes] <;> (try split) <;> omega

/-- A Mode7 pixel's byte is a byte of the tile. -/
theorem mode7Addr_lt {x y : Nat} (hx : x < 8) (hy : y < 8) : mode7Addr x y < 64 := by
  unfold mode7Addr
  omega

/-- The only format without planes is Mode7 (R171). -/
theorem layout_none {f : TileFormat} (h : f.layout = none) : f = .mode7 := by
  cases f <;> first | rfl | simp [TileFormat.layout] at h

theorem setPlanes_wf {m : Memory} (h : Memory.wf m = true) (l : Layout) (x y : Nat) (v : Byte) (n : Nat) :
    Memory.wf (setPlanes l m x y v n) = true := by
  induction n with
  | zero => exact h
  | succ n ih => exact Memory.write_wf ih _ _

/-- Setting a pixel keeps the canonical form. -/
theorem setPixel_wf {m : Memory} (h : Memory.wf m = true) (f : TileFormat) (x y : Nat) (v : Byte) :
    Memory.wf (setPixel f m x y v) = true := by
  unfold setPixel
  split
  · exact Memory.write_wf h _ _
  · exact setPlanes_wf h _ _ _ _ _

/-- Setting a pixel lists no offset beyond the format's bytes. -/
theorem setPixel_below {f : TileFormat} {m : Memory} (h : Cells.below f.bytes m = true) {x y : Nat}
    (hx : x < 8) (hy : y < 8) (v : Byte) : Cells.below f.bytes (setPixel f m x y v) = true := by
  unfold setPixel
  split
  · rename_i hl
    obtain rfl := layout_none hl
    exact Memory.write_below (mode7Addr_lt hx hy) h _
  · rename_i l hl
    have planes : ∀ n, n ≤ f.depth → Cells.below f.bytes (setPlanes l m x y v n) = true := by
      intro n
      induction n with
      | zero => exact fun _ => h
      | succ n ih => exact fun hn => Memory.write_below (planeAddr_lt hl hn hy) (ih (Nat.le_of_succ_le hn)) _
    exact planes f.depth (Nat.le_refl _)

@[simp] theorem colormap_length (f : TileFormat) (m : Memory) : (colormap f m).length = 64 := by
  simp [colormap]

/-- Element `i` of a colormap is pixel `(i % 8, i / 8)` (R54). -/
theorem colormap_getElem? (f : TileFormat) (m : Memory) {i : Nat} (h : i < 64) :
    (colormap f m)[i]? = some (getPixel f m (i % 8) (i / 8)) := by
  simp [colormap, h]

/-! ### Palette payloads -/

/-- A payload of `2n` bytes holds `n` colours. -/
theorem colorsOf_length (bs : List Byte) : (colorsOf bs).length = bs.length / 2 := by
  fun_induction colorsOf bs with
  | case1 lo hi bs ih =>
    simp only [List.length_cons, ih]
    omega
  | case2 bs h =>
    match bs, h with
    | [], _ => rfl
    | [_], _ => simp
    | lo :: hi :: bs, h => exact absurd rfl (h lo hi bs)

/-- Colour `i` of a payload is its bytes `2i` and `2i+1`, low byte first (R50). -/
theorem colorsOf_getElem? (bs : List Byte) (i : Nat) (h : 2 * i + 1 < bs.length) :
    (colorsOf bs)[i]? = some (bs.getD (2 * i + 1) 0 ++ bs.getD (2 * i) 0) := by
  fun_induction colorsOf bs generalizing i with
  | case1 lo hi bs ih =>
    cases i with
    | zero => simp
    | succ i =>
      have hl : 2 * i + 1 < bs.length := by simp at h; omega
      have e2 : 2 * (i + 1) = 2 * i + 1 + 1 := by omega
      simp only [List.getElem?_cons_succ, ih i hl, e2, List.getD_cons_succ]
  | case2 bs h' =>
    match bs, h' with
    | [], _ => simp at h
    | [_], _ => simp at h
    | lo :: hi :: bs, h' => exact absurd rfl (h' lo hi bs)

end Sys2Proof.Machine
end

