-- ==== Sys2Proof/Laws/Ops.lean ====
section
/-! SUPPORT. What each check of the operands can answer, when it passes, and what a step can do: the lemmas the
provers cite instead of unfolding the checks. -/

namespace Sys2Proof.Machine

/-! ### When each check passes -/

theorem lengthError_eq_none {n k : Nat} : lengthError n k = none ↔ k = n := by
  simp [lengthError]

theorem boundsError_eq_none {c : Nat} : boundsError c = none ↔ c < 8 := by
  simp [boundsError]

theorem coordError_eq_none {x y : Nat} : coordError x y = none ↔ x < 8 ∧ y < 8 := by
  simp [coordError, Option.or_eq_none_iff, boundsError_eq_none]

theorem valueError_eq_none {lim : Option Nat} {v : Byte} :
    valueError lim v = none ↔ ∀ n, lim = some n → v.toNat < n := by
  cases lim <;> simp [valueError]

theorem indexError_eq_none {z : PalSize} {i : Byte} : indexError z i = none ↔ i.toNat < z.cap := by
  have := i.isLt
  cases z <;> simp [indexError, PalSize.cap]
  omega

theorem pixelError_eq_none {cfg : Config} {f : TileFormat} {x y : Nat} {v : Byte} :
    pixelError cfg f x y v = none ↔ (x < 8 ∧ y < 8) ∧ ∀ n, f.limit cfg = some n → v.toNat < n := by
  simp [pixelError, Option.or_eq_none_iff, coordError_eq_none, valueError_eq_none]

theorem firstIndexError_eq_none {z : PalSize} {vs : List Byte} :
    firstIndexError z vs = none ↔ ∀ v ∈ vs, v.toNat < z.cap := by
  induction vs with
  | nil => simp [firstIndexError]
  | cons v vs ih => simp [firstIndexError, Option.or_eq_none_iff, indexError_eq_none, ih]

/-! ### What each check answers where it fails -/

theorem lengthError_cases (n k : Nat) : lengthError n k = none ∨
    lengthError n k = some { kind := .lengthMismatch, e0 := infoField n, e1 := infoField k } := by
  unfold lengthError
  split
  · exact .inl rfl
  · exact .inr rfl

theorem coordError_cases (x y : Nat) : coordError x y = none ∨
    (8 ≤ x ∧ coordError x y = some { kind := .outOfBounds, e0 := infoField x, e1 := infoField 8 }) ∨
    (x < 8 ∧ 8 ≤ y ∧ coordError x y = some { kind := .outOfBounds, e0 := infoField y, e1 := infoField 8 }) := by
  unfold coordError boundsError
  by_cases hx : 8 ≤ x
  · exact .inr (.inl ⟨hx, by simp [hx]⟩)
  · by_cases hy : 8 ≤ y
    · exact .inr (.inr ⟨by omega, hy, by simp [hx, hy]⟩)
    · exact .inl (by simp [hx, hy])

theorem valueError_cases (lim : Option Nat) (v : Byte) : valueError lim v = none ∨
    ∃ n, lim = some n ∧ n ≤ v.toNat ∧
      valueError lim v = some { kind := .invalidValue, e0 := v.setWidth 16, e1 := infoField n } := by
  cases lim with
  | none => exact .inl rfl
  | some n =>
    by_cases h : n ≤ v.toNat
    · exact .inr ⟨n, rfl, h, by simp [valueError, h]⟩
    · exact .inl (by simp [valueError, h])

theorem indexError_cases (z : PalSize) (i : Byte) : indexError z i = none ∨
    (z = .pal16 ∧ 16 ≤ i.toNat ∧
      indexError z i = some { kind := .invalidIndex, e0 := i.setWidth 16, e1 := infoField 16 }) := by
  cases z with
  | pal256 => exact .inl rfl
  | pal16 =>
    by_cases h : 16 ≤ i.toNat
    · exact .inr ⟨rfl, h, by simp [indexError, h]⟩
    · exact .inl (by simp [indexError, h])

/-- A failing pixel write reports its coordinate if one is out of range, else its value. -/
theorem pixelError_cases (cfg : Config) (f : TileFormat) (x y : Nat) (v : Byte) :
    (∃ e, coordError x y = some e ∧ pixelError cfg f x y v = some e) ∨
      (coordError x y = none ∧ pixelError cfg f x y v = valueError (f.limit cfg) v) := by
  unfold pixelError
  cases h : coordError x y with
  | none => exact .inr ⟨rfl, by simp⟩
  | some e => exact .inl ⟨e, rfl, by simp⟩

/-- A failing scan of indices reports the first element that fails. -/
theorem firstIndexError_some {z : PalSize} {vs : List Byte} {e : CmdError} (h : firstIndexError z vs = some e) :
    ∃ (k : Nat) (v : Byte), vs[k]? = some v ∧ (∀ (j : Nat) (u : Byte), j < k → vs[j]? = some u → indexError z u = none) ∧
      indexError z v = some e := by
  induction vs with
  | nil => simp [firstIndexError] at h
  | cons v vs ih =>
    simp only [firstIndexError] at h
    cases hv : indexError z v with
    | some e' =>
      rw [hv] at h
      exact ⟨0, v, rfl, fun j u hj => absurd hj (Nat.not_lt_zero j), by simpa [hv] using h⟩
    | none =>
      rw [hv, Option.none_or] at h
      obtain ⟨k, u, hk, hall, he⟩ := ih h
      refine ⟨k + 1, u, hk, fun j w hj hw => ?_, he⟩
      cases j with
      | zero =>
        obtain rfl : v = w := by simpa using hw
        exact hv
      | succ j => exact hall j w (Nat.lt_of_succ_lt_succ hj) hw

/-! ### What a step can do -/

/-- Everything a step can do, by what is at the port. -/
theorem step_cases (s : State) :
    (s.inputs = [] ∧ step s = .next s) ∨
      (∃ rest, s.inputs = .reset :: rest ∧ step s = .next s.takeReset) ∨
      (∃ c rest, s.inputs = .command c :: rest ∧ step s = runCommand c s) := by
  unfold step takeInput
  cases h : s.inputs with
  | nil => exact .inl ⟨rfl, rfl⟩
  | cons i rest =>
    cases i with
    | command c => exact .inr (.inr ⟨c, rest, rfl, rfl⟩)
    | reset => exact .inr (.inl ⟨rest, rfl, rfl⟩)

end Sys2Proof.Machine
end

