-- ==== Sys2Proof/Laws/PerInstr.lean ====
section
/-! SUPPORT. Facts about every command as syntax, one lemma per constructor: its encoding carries its opcode. -/

namespace Sys2Proof.Laws

/-- The word the encoder writes for `i` carries `i`'s opcode in its top eight bits (R85). -/
def EncodedOpcode.Statement (i : Instr) : Prop := opcField (encode i) = i.opcode

theorem EncodedOpcode.c15To24 (c : Color15) : EncodedOpcode.Statement (.c15To24 c) :=
  opcField_mkWord _ _ _ _ _

theorem EncodedOpcode.c15Make (r g b : Byte) : EncodedOpcode.Statement (.c15Make r g b) :=
  opcField_mkWord _ _ _ _ _

theorem EncodedOpcode.c15GetR (c : Color15) : EncodedOpcode.Statement (.c15GetR c) :=
  opcField_mkWord _ _ _ _ _

theorem EncodedOpcode.c15GetG (c : Color15) : EncodedOpcode.Statement (.c15GetG c) :=
  opcField_mkWord _ _ _ _ _

theorem EncodedOpcode.c15GetB (c : Color15) : EncodedOpcode.Statement (.c15GetB c) :=
  opcField_mkWord _ _ _ _ _

theorem EncodedOpcode.c15SetR (v : Byte) (c : Color15) : EncodedOpcode.Statement (.c15SetR v c) :=
  opcField_mkWord _ _ _ _ _

theorem EncodedOpcode.c15SetG (v : Byte) (c : Color15) : EncodedOpcode.Statement (.c15SetG v c) :=
  opcField_mkWord _ _ _ _ _

theorem EncodedOpcode.c15SetB (v : Byte) (c : Color15) : EncodedOpcode.Statement (.c15SetB v c) :=
  opcField_mkWord _ _ _ _ _

theorem EncodedOpcode.c24To15 (d : Color24) : EncodedOpcode.Statement (.c24To15 d) :=
  opcField_mkWord _ _ _ _ _

theorem EncodedOpcode.c24Make (r g b : Byte) : EncodedOpcode.Statement (.c24Make r g b) :=
  opcField_mkWord _ _ _ _ _

theorem EncodedOpcode.c24GetR (d : Color24) : EncodedOpcode.Statement (.c24GetR d) :=
  opcField_mkWord _ _ _ _ _

theorem EncodedOpcode.c24GetG (d : Color24) : EncodedOpcode.Statement (.c24GetG d) :=
  opcField_mkWord _ _ _ _ _

theorem EncodedOpcode.c24GetB (d : Color24) : EncodedOpcode.Statement (.c24GetB d) :=
  opcField_mkWord _ _ _ _ _

theorem EncodedOpcode.c24SetR (v : Byte) (d : Color24) : EncodedOpcode.Statement (.c24SetR v d) :=
  opcField_mkWord _ _ _ _ _

theorem EncodedOpcode.c24SetG (v : Byte) (d : Color24) : EncodedOpcode.Statement (.c24SetG v d) :=
  opcField_mkWord _ _ _ _ _

theorem EncodedOpcode.c24SetB (v : Byte) (d : Color24) : EncodedOpcode.Statement (.c24SetB v d) :=
  opcField_mkWord _ _ _ _ _

theorem EncodedOpcode.palLoad (sel : Byte) : EncodedOpcode.Statement (.palLoad sel) :=
  opcField_mkWord _ _ _ _ _

theorem EncodedOpcode.palGet (i : Byte) : EncodedOpcode.Statement (.palGet i) :=
  opcField_mkWord _ _ _ _ _

theorem EncodedOpcode.palSet (i : Byte) (c : Color15) : EncodedOpcode.Statement (.palSet i c) :=
  opcField_mkWord _ _ _ _ _

theorem EncodedOpcode.tileNew (f : Byte) : EncodedOpcode.Statement (.tileNew f) :=
  opcField_mkWord _ _ _ _ _

theorem EncodedOpcode.tileLoad (f : Byte) : EncodedOpcode.Statement (.tileLoad f) :=
  opcField_mkWord _ _ _ _ _

theorem EncodedOpcode.tileRead : EncodedOpcode.Statement .tileRead :=
  opcField_mkWord _ _ _ _ _

theorem EncodedOpcode.tileGetPix (x y : Byte) : EncodedOpcode.Statement (.tileGetPix x y) :=
  opcField_mkWord _ _ _ _ _

theorem EncodedOpcode.tileSetPix (x y v : Byte) : EncodedOpcode.Statement (.tileSetPix x y v) :=
  opcField_mkWord _ _ _ _ _

theorem EncodedOpcode.tileDecode : EncodedOpcode.Statement .tileDecode :=
  opcField_mkWord _ _ _ _ _

theorem EncodedOpcode.tileEncode (f : Byte) : EncodedOpcode.Statement (.tileEncode f) :=
  opcField_mkWord _ _ _ _ _

theorem EncodedOpcode.pipeNative : EncodedOpcode.Statement .pipeNative :=
  opcField_mkWord _ _ _ _ _

theorem EncodedOpcode.pipeDisplay : EncodedOpcode.Statement .pipeDisplay :=
  opcField_mkWord _ _ _ _ _

theorem EncodedOpcode.pipeDirect (pa : BitVec 3) : EncodedOpcode.Statement (.pipeDirect pa) :=
  opcField_mkWord _ _ _ _ _

end Sys2Proof.Laws
end

