-- ==== Sys2Proof/Tests/Slice0.lean ====
section
/-! SUPPORT. Our own tests. Words are written from the encoding of 30_encoding.md (sections 1 to 5); expected values
come from 95_test_vectors.md, the section named in each part; and for each statement with hypotheses a theorem
shows operands and a state that meet them together, at the boundaries of each clause. -/

namespace Sys2Proof.Tests

open Sys2Proof Sys2Proof.Machine

/-! ### Helpers -/

/-- A payload of the given bytes. -/
def pay (bs : List Byte) (h : bs.length < 65536 := by decide) : Payload := { bytes := bs, presentable := h }

/-- A payload of `n` zero bytes. -/
def zeros (n : Nat) (h : n < 65536 := by decide) : Payload :=
  { bytes := List.replicate n 0, presentable := by rw [List.length_replicate]; exact h }

theorem zeros_length (n : Nat) (h : n < 65536) (s : State) (w : CmdWord) :
    ({ s with inputs := [.command { word := w, din := zeros n h }] } : State).din.length = n :=
  List.length_replicate

/-- `s` with one command at the port. -/
def present (s : State) (w : CmdWord) (p : Payload := Payload.none) : State :=
  { s with inputs := [.command { word := w, din := p }] }

/-- The state a step leaves. -/
def after : Host.Outcome State Fault Refusal → State
  | .next s => s
  | .fault _ => State.reset
  | .refused _ => State.reset

/-- The last response given. -/
def rsp (r : Host.Outcome State Fault Refusal) : Option Response := (after r).responses.getLast?

/-- The response to a word presented in a state. -/
def answer (s : State) (w : CmdWord) (p : Payload := Payload.none) : Option Response := rsp (step (present s w p))

/-- A state whose tile has the format `f` and the bytes `bs`. -/
def tileState (f : TileFormat) (bs : List Byte) : State := State.reset.putTile f (Memory.ofBytes bs)

/-- The 1bpp tile of section 1.2. -/
def glyph : List Byte := [0x18, 0x3C, 0x7E, 0xDB, 0xFF, 0x24, 0x5A, 0x81]

/-- The palette of section 2.2: its first six entries, the others zero. -/
def colors : List Color15 := [0x0000, 0x001F, 0x03E0, 0x7C00, 0x7FFF, 0xFFFF] ++ List.replicate 10 0

/-- The glyph and the palette, as program 1 of section 3.1 leaves them. -/
def glyphState : State := (tileState .bpp1 glyph).putPalette .pal16 (Palette.ofColors colors)

/-- A 256-entry palette of which entry 255 is written. -/
def bigState : State := State.reset.putPalette .pal256 [(255, 0x00FF#16)]

/-- A Mode7 tile whose first bytes are 15 and 16. -/
def indexState : State := tileState .mode7 [15, 16]

/-! ### WellFormed: each check refuses an ill-formed command, and passes at its boundary -/

theorem test_wellFormed_tileNew : (Instr.tileNew 10).wellFormed = false ∧ (Instr.tileNew 9).wellFormed = true := by decide

theorem test_wellFormed_tileLoad : (Instr.tileLoad 10).wellFormed = false ∧ (Instr.tileLoad 9).wellFormed = true := by decide

theorem test_wellFormed_tileEncode : (Instr.tileEncode 10).wellFormed = false ∧ (Instr.tileEncode 9).wellFormed = true := by decide

theorem test_wellFormed_palLoad : (Instr.palLoad 2).wellFormed = false ∧ (Instr.palLoad 1).wellFormed = true := by decide

/-! ### Decoding: a word of every command, from the field table of R81 and the opcode map of R85 -/

theorem test_decode_c15To24 : decode 0b0001000000000000000000000000000000000000000000000111111111111111#64 = some (.c15To24 0x7FFF) := by decide
theorem test_decode_c15Make : decode 0x1101020300000000#64 = some (.c15Make 1 2 3) := by decide
theorem test_decode_c15GetR : decode 0x12000000000083FF#64 = some (.c15GetR 0x83FF) := by decide
theorem test_decode_c15GetG : decode 0x1300000000000220#64 = some (.c15GetG 0x0220) := by decide
theorem test_decode_c15GetB : decode 0x140000000000FC00#64 = some (.c15GetB 0xFC00) := by decide
theorem test_decode_c15SetR : decode 0x151F000000008000#64 = some (.c15SetR 0x1F 0x8000) := by decide
theorem test_decode_c15SetG : decode 0x16FF000000008000#64 = some (.c15SetG 0xFF 0x8000) := by decide
theorem test_decode_c15SetB : decode 0x173500000000FFFF#64 = some (.c15SetB 0x35 0xFFFF) := by decide
theorem test_decode_c24To15 : decode 0x18000000FFFFFFFF#64 = some (.c24To15 0xFFFFFFFF) := by decide
theorem test_decode_c24Make : decode 0x1912345600000000#64 = some (.c24Make 0x12 0x34 0x56) := by decide
theorem test_decode_c24GetR : decode 0x1A000000AB123456#64 = some (.c24GetR 0xAB123456) := by decide
theorem test_decode_c24GetG : decode 0x1B000000AB123456#64 = some (.c24GetG 0xAB123456) := by decide
theorem test_decode_c24GetB : decode 0x1C000000AB123456#64 = some (.c24GetB 0xAB123456) := by decide
theorem test_decode_c24SetR : decode 0x1D990000AB123456#64 = some (.c24SetR 0x99 0xAB123456) := by decide
theorem test_decode_c24SetG : decode 0x1E990000AB123456#64 = some (.c24SetG 0x99 0xAB123456) := by decide
theorem test_decode_c24SetB : decode 0x1F990000AB123456#64 = some (.c24SetB 0x99 0xAB123456) := by decide
theorem test_decode_palLoad : decode 0x2001000000000000#64 = some (.palLoad 1) := by decide
theorem test_decode_palGet : decode 0x210F000000000000#64 = some (.palGet 15) := by decide
theorem test_decode_palSet : decode 0b0010001000000101000000000000000000000000000000000000001111100000#64 = some (.palSet 5 0x03E0) := by decide
theorem test_decode_tileNew : decode 0x3009FFFFFFFFFFFF#64 = some (.tileNew 9) := by decide
theorem test_decode_tileLoad : decode 0x3106000000000000#64 = some (.tileLoad 6) := by decide
theorem test_decode_tileRead : decode 0x3200000000000000#64 = some (.tileRead) := by decide
theorem test_decode_tileGetPix : decode 0x33030455AAAAAAAA#64 = some (.tileGetPix 3 4) := by decide
theorem test_decode_tileSetPix : decode 0b0011010000000011000001000000001000000000000000000000000000000000#64 = some (.tileSetPix 3 4 2) := by decide
theorem test_decode_tileDecode : decode 0x3500000000000000#64 = some (.tileDecode) := by decide
theorem test_decode_tileEncode : decode 0x3601000000000000#64 = some (.tileEncode 1) := by decide
theorem test_decode_pipeNative : decode 0x4000000000000000#64 = some (.pipeNative) := by decide
theorem test_decode_pipeDisplay : decode 0x4100000000000000#64 = some (.pipeDisplay) := by decide
theorem test_decode_pipeDirect : decode 0b0100001011111101000000000000000000000000000000000000000000000000#64 = some (.pipeDirect 5) := by decide

/-- Opcodes 0x00, 0x23, 0x37, 0xFF of section 2.7, and 0x0F, 0x2F, 0x43 beside the map's ends. -/
theorem test_decode_undefined : (([0x0000000000000000#64, 0x2300000000000000#64, 0x3700000000000000#64,
    0xFF12345678ABCDEF#64, 0x0F00000000000000#64, 0x2F00000000000000#64, 0x4300000000000000#64].map decode).all
    Option.isNone) = true := by decide

/-- Ignored bits of a Color15 command (section 2.1). -/
theorem test_decode_ignored_bits : decode 0x10FFFFFFABCD7FFF#64 = decode 0x1000000000007FFF#64 := by decide

theorem test_decodeTableWord : decodeTableWord 64 0x2205000000008123 = some (.palSet 5 0x8123) := by decide

/-- A word placed after reset is the command the next step runs. -/
theorem test_withFetchWord : rsp (step (State.reset.withFetchWord 64 0x1101020300000000)) = some (okWord 0x0C41) := by
  decide

/-- The payload at the port stays where the word is placed over one. -/
theorem test_withFetchWord_payload : rsp (step ((present State.reset 0 (pay glyph)).withFetchWord 64
    0x3100000000000000)) = some (okWord 0) := by decide

/-! ### color_channel_shifter (section 2.1) -/

theorem test_c15To24_bit15 : answer State.reset 0x100000000000FFFF = some (okWord 0x00F8F8F8) := by decide
theorem test_c15To24 : answer State.reset 0x100000000000221F = some (okWord 0x00F88040) := by decide
theorem test_c15Make : answer State.reset 0x11FF202100000000 = some (okWord 0x041F) := by decide
theorem test_c15GetR : answer State.reset 0x12000000000083FF = some (okWord 31) := by decide
theorem test_c15GetG : answer State.reset 0x1300000000000220 = some (okWord 17) := by decide
theorem test_c15GetB : answer State.reset 0x140000000000FC00 = some (okWord 31) := by decide
theorem test_c15SetR : answer State.reset 0x1520000000007FFF = some (okWord 0x7FE0) := by decide
theorem test_c15SetG : answer State.reset 0x160000000000FFFF = some (okWord 0xFC1F) := by decide
theorem test_c15SetB : answer State.reset 0x173500000000FFFF = some (okWord 0xD7FF) := by decide
theorem test_c24To15 : answer State.reset 0x1800000000FF8040 = some (okWord 0x221F) := by decide
theorem test_c24To15_top : answer State.reset 0x18000000FFFFFFFF = some (okWord 0x7FFF) := by decide
theorem test_c24Make : answer State.reset 0x1912345600000000 = some (okWord 0x00123456) := by decide
theorem test_c24GetR : answer State.reset 0x1A000000AB123456 = some (okWord 18) := by decide
theorem test_c24GetG : answer State.reset 0x1B000000AB123456 = some (okWord 52) := by decide
theorem test_c24GetB : answer State.reset 0x1C000000AB123456 = some (okWord 86) := by decide
theorem test_c24SetR : answer State.reset 0x1D990000AB123456 = some (okWord 0xAB993456) := by decide
theorem test_c24SetG : answer State.reset 0x1E990000AB123456 = some (okWord 0xAB129956) := by decide
theorem test_c24SetB : answer State.reset 0x1F990000AB123456 = some (okWord 0xAB123499) := by decide

/-! ### palette_ram_lookup (sections 1.6, 2.2, 3.5) -/

theorem test_palLoad : ((after (step (present State.reset 0x2000000000000000 (pay ([0x00, 0x00, 0x1F, 0x00, 0xE0, 0x03,
    0x00, 0x7C, 0xFF, 0x7F, 0xFF, 0xFF] ++ List.replicate 20 0))))).pal) = Palette.ofColors colors := by decide

theorem test_palLoad_short : answer State.reset 0x2000000000000000 (pay (List.replicate 31 0)) = some (err 1 32 31) := by
  decide

theorem test_palGet : answer glyphState 0x2105000000000000 = some (okWord 0xFFFF) := by decide

/-- Program 5, step 10: an entry never written gives some value and one free value is drawn. -/
theorem test_palGet_unwritten : (after (step (present State.reset 0x2104000000000000))).draws = 1 := by decide

theorem test_palSet : (after (step (present State.reset 0x220300000000FCBF))).pal = [(3, 0xFCBF#16)] := by decide

theorem test_palSet_index : answer glyphState 0x22C8000000001234 = some (err 4 200 16) := by decide

/-! ### tile_bitplane_decoder (sections 1.2, 1.3, 2.3, 2.4, 2.5) -/

theorem test_tileNew : let t := after (step (present glyphState 0x3009000000000000))
    t.tileFmt = .mode7 ∧ t.tile = [] := by decide

theorem test_tileNew_illegal : answer State.reset 0x300A000000000000 = some (err 7 48 10) := by decide

theorem test_tileLoad : (after (step (present State.reset 0x3100000000000000 (pay glyph)))).tile.toBytes 8 = glyph := by
  decide

theorem test_tileLoad_long : answer State.reset 0x3100000000000000 (pay (List.replicate 9 7)) = some (err 1 8 9) := by
  decide

theorem test_tileRead : answer glyphState 0x3200000000000000 = some (okOut (.bytes glyph)) := by decide

/-- Program 2, step 6. -/
theorem test_tileGetPix : answer (tileState .bpp2Inter [0x3F, 0xFC]) 0x3302000000000000 = some (okWord 3) := by decide

theorem test_tileGetPix_bounds : answer glyphState 0x3307C80000000000 = some (err 2 200 8) := by decide

/-- 3bpp intertwined, pixel (2, 3) set to 5: T[6] = T[19] = 20. -/
theorem test_tileSetPix : (after (step (present (tileState .bpp3Inter []) 0x3402030500000000))).tile =
    [(6, 0x20#8), (19, 0x20#8)] := by decide

/-- x is reported, though y and the value are wrong too. -/
theorem test_tileSetPix_order : answer (tileState .bpp2Inter []) 0x3409080900000000 = some (err 2 9 8) := by decide

theorem test_tileDecode : answer glyphState 0x3500000000000000 = some (okOut (.bytes
    [0,0,0,1,1,0,0,0, 0,0,1,1,1,1,0,0, 0,1,1,1,1,1,1,0, 1,1,0,1,1,0,1,1,
     1,1,1,1,1,1,1,1, 0,0,1,0,0,1,0,0, 0,1,0,1,1,0,1,0, 1,0,0,0,0,0,0,1])) := by decide

/-- Two elements in 2bpp intertwined, 1 then 3, the rest 0. -/
theorem test_tileEncode : (after (step (present glyphState 0x3602000000000000 (pay [1, 3])))).tile =
    [(0, 0xC0#8), (1, 0x40#8)] := by decide

theorem test_tileEncode_value : answer glyphState 0x3600000000000000 (pay [0, 1, 2]) = some (err 3 2 2) := by decide

/-! ### pixel_pipeline_composition (sections 2.6, 3.1, 3.3, 3.4) -/

theorem test_pipeNative_index : answer indexState 0x4000000000000000 = some (err 4 16 16) := by decide

/-- Entry 5 comes out with its bit 15 (program 3, step 19). -/
theorem test_pipeNative : answer ((tileState .mode7 [0, 5]).putPalette .pal16 (Palette.ofColors colors))
    0x4000000000000000 = some (okOut (.color15s ([0x0000, 0xFFFF] ++ List.replicate 62 0x0000))) := by decide

theorem test_pipeDisplay : answer ((tileState .mode7 [0, 5]).putPalette .pal16 (Palette.ofColors colors))
    0x4100000000000000 = some (okOut (.color24s ([0x00000000, 0x00F8F8F8] ++ List.replicate 62 0))) := by decide

theorem test_pipeDirect : answer (tileState .mode7 [0xFF, 0x07, 0x38, 0xC0]) 0x4205000000000000 =
    some (okOut (.color15s ([0x35CF, 0x040F, 0x05C1, 0x3401] ++ List.replicate 60 0x0401))) := by decide

/-! ### The machine -/

theorem test_illegal_opcode : answer glyphState 0xFF12345678ABCDEF = some (err 7 255 18) := by decide

theorem test_idle : after (step glyphState) = glyphState := by decide

theorem test_reset_event : after (step { glyphState with inputs := [.reset] }) = State.reset := by decide

/-! ### Witnesses: the hypotheses of each statement can be met, clause by clause at the boundaries -/

theorem witness_UsedBitsDecideTheCommand : decode 0x42FD000000000000#64 = some (.pipeDirect 5) ∧
    0x4205000000000000#64 &&& usedBits (.pipeDirect 5) = 0x42FD000000000000#64 &&& usedBits (.pipeDirect 5) := by
  decide

theorem witness_StepRunsDecodedCommand :
    ((present glyphState 0x1000000000007FFF).inputs = .command ⟨0x1000000000007FFF, Payload.none⟩ :: [] ∧
      decode 0x1000000000007FFF#64 = some (.c15To24 0x7FFF)) ∧
    decodeTableWord 64 0x4207000000000000 = some (.pipeDirect 7) := by decide

/-- The opcodes next to the ends of the map, and the first illegal code of each check. -/
theorem witness_IllegalWordAnswered : illegalWord 0x0F00000000000000#64 ∧ illegalWord 0x2300000000000000#64 ∧
    illegalWord 0x2F00000000000000#64 ∧ illegalWord 0x3700000000000000#64 ∧ illegalWord 0x4300000000000000#64 ∧
    illegalWord 0x300A000000000000#64 ∧ illegalWord 0x310A000000000000#64 ∧ illegalWord 0x360A000000000000#64 ∧
    illegalWord 0x2002000000000000#64 ∧
    (present State.reset 0x0F00000000000000).inputs = .command ⟨0x0F00000000000000, Payload.none⟩ :: [] := by
  unfold illegalWord definedOpcode
  refine ⟨?_, ?_, ?_, ?_, ?_, ?_, ?_, ?_, ?_, rfl⟩ <;> decide

theorem witness_IdleStepHoldsState : State.reset.inputs = [] := rfl

theorem witness_ResetEventResetsItems : ({ glyphState with inputs := [.reset] } : State).inputs = .reset :: [] := rfl

/-- The last pixel of a Mode7 tile is set, in a state with the invariant. -/
theorem witness_StepKeepsInvariant : (present indexState 0x340707FF00000000).inv = true ∧
    ∃ t, step (present indexState 0x340707FF00000000) = .next t ∧ t.tile.read 63 = 0xFF#8 :=
  ⟨by decide, _, rfl, by decide⟩

theorem witness_EveryStepCompletes :
    (present State.reset 0x4300000000000000).inputs = .command ⟨0x4300000000000000, Payload.none⟩ :: [] := rfl

/-- A command that fails, and what its last response is; and a word that decodes to nothing. -/
theorem witness_FailedCommandChangesNothing : (∃ t r, exec (.tileSetPix 8 0 0) glyphState = .next t ∧
      t.responses = glyphState.responses ++ [r] ∧ r.ok = false) ∧
    ∃ t r, step (present glyphState 0x4300000000000000) = .next t ∧ t.responses = glyphState.responses ++ [r] ∧
      r.ok = false :=
  ⟨⟨_, err 2 8 8, rfl, by decide, rfl⟩, _, err 7 67 0, rfl, by decide, rfl⟩

/-- A success and a failure: both cases of the response's fields. -/
theorem witness_ResponseFields : (∃ t, exec (.tileGetPix 7 7) glyphState = .next t ∧
      t.responses = glyphState.responses ++ [okWord 1]) ∧
    ∃ t, exec (.tileGetPix 8 7) glyphState = .next t ∧ t.responses = glyphState.responses ++ [err 2 8 8] :=
  ⟨⟨_, rfl, by decide⟩, _, rfl, by decide⟩

theorem witness_CommandsThatNeverFail : commandGroup (.c15To24 0) = 1 ∧ commandGroup (.c24SetB 0 0) = 1 ∧
    Instr.tileRead.opcode ∈ [0x32#8, 0x35#8, 0x42#8] ∧ (Instr.pipeDirect 7).opcode ∈ [0x32#8, 0x35#8, 0x42#8] ∧
    bigState.palSize = .pal256 ∧ (Instr.palGet 255).opcode ∈ [0x21#8, 0x22#8, 0x40#8, 0x41#8] := by decide

/-- One failing command of each kind of the matrix. -/
theorem witness_ErrorKindsPerCommand :
    rsp (exec (.palLoad 0) glyphState) = some (err 1 32 0) ∧
    rsp (exec (.tileLoad 9) glyphState) = some (err 1 64 0) ∧
    rsp (exec (.tileGetPix 0 8) glyphState) = some (err 2 8 8) ∧
    rsp (exec (.tileSetPix 7 7 2) glyphState) = some (err 3 2 2) ∧
    rsp (exec (.tileEncode 7) (present glyphState 0 (pay [16]))) = some (err 3 16 16) ∧
    rsp (exec (.palGet 16) glyphState) = some (err 4 16 16) ∧
    rsp (exec .pipeDisplay indexState) = some (err 4 16 16) ∧
    rsp (exec (.tileEncode 10) glyphState) = some (err 7 54 10) := by decide

theorem witness_ReadingCommandsLeaveItems :
    (Instr.palGet 15).opcode ∉ [0x20#8, 0x22#8, 0x30#8, 0x31#8, 0x34#8, 0x36#8] ∧
    Instr.tileDecode.opcode ∉ [0x20#8, 0x22#8, 0x30#8, 0x31#8, 0x34#8, 0x36#8, 0x21#8, 0x40#8, 0x41#8] ∧
    (∃ t, exec (.palGet 15) glyphState = .next t) ∧ ∃ t, exec .tileDecode glyphState = .next t :=
  ⟨by decide, by decide, ⟨_, rfl⟩, _, rfl⟩

theorem witness_WritingCommandsIdempotent : glyphState.inv = true ∧
    (Instr.tileSetPix 7 7 0).opcode ∈ [0x20#8, 0x22#8, 0x30#8, 0x31#8, 0x34#8, 0x36#8] ∧
    ∃ t, exec (.tileSetPix 7 7 0) glyphState = .next t :=
  ⟨by decide, by decide, _, rfl⟩

/-- Another port with the same payload, and other responses before. -/
theorem witness_HistoryDoesNotMatter : ({ present glyphState 0 (pay glyph) with
    responses := [okWord 5], inputs := [.command ⟨1, pay glyph⟩, .reset] } : State).din =
      (present glyphState 0 (pay glyph)).din := by decide

theorem witness_TileAndPaletteIndependent : commandGroup (.c15GetR 0) = 1 ∧ commandGroup .tileRead = 3 ∧
    (Instr.pipeDirect 0).opcode = 0x42#8 ∧ commandGroup (.palGet 0) = 2 := by decide

/-- Words with the opcodes that the result statements name, every operand field all ones. -/
theorem witness_operand_clauses : [0x10#8, 0x11#8, 0x12#8, 0x13#8, 0x14#8, 0x15#8, 0x16#8, 0x17#8, 0x18#8, 0x19#8, 0x1A#8,
    0x1B#8, 0x1C#8, 0x1D#8, 0x1E#8, 0x1F#8, 0x20#8, 0x21#8, 0x22#8, 0x30#8, 0x31#8, 0x32#8, 0x33#8, 0x34#8, 0x35#8,
    0x36#8, 0x40#8, 0x41#8, 0x42#8].all (fun o =>
      decide ((mkWord o 0xFF 0xFF 0xFF 0xFFFFFFFF).extractLsb' 56 8 = o)) = true := by decide

/-- A success and its response, for a command with a word and for one with an output. -/
theorem witness_ResultPlacement : rsp (exec (.palGet 5) glyphState) = some (okWord 0xFFFF) ∧
    rsp (exec .tileRead glyphState) = some (okOut (.bytes glyph)) := by decide

theorem witness_ConversionRoundTrips : (0x7FFF#16).getLsbD 15 = false ∧ (0x7FFF#16).getLsbD 15 = false ∧
    to24 0x7FFF = to24 0x7FFF := by decide

theorem witness_PalLoadResult : 2 ≤ (2#8).toNat ∧ 2 ≤ (255#8).toNat ∧
    (present State.reset 0 (zeros 31)).din.length ≠ 2 * 16 ∧
    (present State.reset 0 (zeros 32)).din.length = 2 * 16 ∧
    (present State.reset 0 (zeros 513)).din.length ≠ 2 * 256 ∧
    (present State.reset 0 (zeros 512)).din.length = 2 * 256 := by
  simp only [present, zeros_length]
  decide

/-- Index 16 with 16 entries; index 15 with 16 entries, written and not; index 255 with 256 entries. -/
theorem witness_PalGetResult : (glyphState.palSize = .pal16 ∧ 16 ≤ (16#8).toNat) ∧
    ((15#8).toNat < 16 ∧ glyphState.pal.entry (15#8).toNat = some 0) ∧
    ((15#8).toNat < 16 ∧ State.reset.pal.entry (15#8).toNat = none) ∧
    (bigState.palSize = .pal256 ∧ bigState.pal.entry (255#8).toNat = some 0x00FF) ∧
    (bigState.palSize = .pal256 ∧ bigState.pal.entry (254#8).toNat = none) := by decide

theorem witness_PalSetResult : (State.reset.palSize = .pal16 ∧ 16 ≤ (16#8).toNat) ∧ (15#8).toNat < 16 ∧
    bigState.palSize = .pal256 := by decide

theorem witness_PaletteReadBack : (15#8).toNat < 16 ∧
    ((0#8 = 0#8 ∧ 16 = 16) ∧ (present State.reset 0 (zeros 32)).din.length = 2 * 16) ∧
    ((1#8 = 1#8 ∧ 256 = 256) ∧ (present State.reset 0 (zeros 512)).din.length = 2 * 256 ∧ (255#8).toNat < 256) := by
  simp only [present, zeros_length]
  decide

theorem witness_WrittenPaletteGivesNoFreeValue : glyphState.paletteWritten = true ∧
    Instr.pipeDisplay.opcode ∈ [0x21#8, 0x40#8, 0x41#8] := by decide

/-- The pixels of a Mode7 tile with one byte 15 are at most 15. -/
theorem fifteen_pixels : ∀ u ∈ colormap .mode7 [(0, 15#8)], u.toNat < 16 := by
  intro u hu
  obtain ⟨i, _, rfl⟩ := List.mem_map.1 hu
  show (Memory.read [(0, 15#8)] (mode7Addr (i % 8) (i / 8))).toNat < 16
  simp only [Memory.read, Cells.find]
  split <;> decide

/-- An unwritten entry with 16 entries, and a tile whose pixels are all below 16. -/
theorem witness_OneFreeValuePerUnwrittenRead : (15#8).toNat < 16 ∧ State.reset.pal.entry (15#8).toNat = none ∧
    ∀ u ∈ colormap .mode7 [(0, 15#8)], u.toNat < 16 := ⟨by decide, by decide, fifteen_pixels⟩

theorem witness_PlaneAddressBijection : TileFormat.bpp3Inter.layout = some .mixed ∧ 2 < TileFormat.bpp3Inter.depth ∧
    planeAddr .mixed 2 7 = 23 ∧ 23 < TileFormat.bpp3Inter.bytes := by decide

theorem witness_GetPixelBits : TileFormat.bpp8Inter.layout = some .intertwined ∧ 7 < 8 ∧
    getPixel .bpp8Inter [(62, 1#8), (63, 1#8)] 7 7 = 0xC0#8 := by decide

theorem witness_SetPixelBits : TileFormat.bpp4Planar.layout = some .planar ∧
    (∀ p, p < TileFormat.bpp4Planar.depth → 31 = planeAddr .planar p 7 → 1 ≠ 7 - 7) := by
  refine ⟨rfl, fun p _ _ => by decide⟩

theorem witness_GetPixelAfterSetPixel : (3#8).toNat < 2 ^ TileFormat.bpp2Inter.depth ∧ (7 ≠ 0 ∨ 7 ≠ 7) := by decide

theorem witness_SetPixelKeepsLowBitsOnly :
    (0xF5#8).toNat % 2 ^ TileFormat.bpp3Planar.depth = (5#8).toNat % 2 ^ TileFormat.bpp3Planar.depth := by decide

/-- The two byte strings of section 1.3: the 2bpp siblings of one picture. -/
theorem witness_SiblingLayoutsSameColormap : TileFormat.bpp2Planar.layout = some .planar ∧
    TileFormat.bpp2Inter.layout = some .intertwined ∧ TileFormat.bpp2Inter.depth = TileFormat.bpp2Planar.depth ∧
    ∀ p < 2, ∀ y < 8,
      (Memory.ofBytes [0x3F, 0xFC, 0x1F, 0xE0, 0x27, 0xF9, 0x30, 0xEF, 0x27, 0xF8, 0x3F, 0xE0, 0xC0, 0xE7, 0x00,
        0xE0]).read (planeAddr .intertwined p y) =
      (Memory.ofBytes [0x3F, 0x1F, 0x27, 0x30, 0x27, 0x3F, 0xC0, 0x00, 0xFC, 0xE0, 0xF9, 0xEF, 0xF8, 0xE0, 0xE7,
        0xE0]).read (planeAddr .planar p y) := by decide

theorem witness_TileNewResult : 10 ≤ (10#8).toNat ∧ TileFormat.ofCode 9 = some .mode7 ∧
    TileFormat.ofCode 0 = some .bpp1 := by decide

theorem witness_TileLoadResult : 10 ≤ (10#8).toNat ∧ TileFormat.ofCode 0 = some .bpp1 ∧
    (present State.reset 0 (pay (List.replicate 7 7))).din.length ≠ TileFormat.bpp1.bytes ∧
    (present State.reset 0 (pay (List.replicate 9 7))).din.length ≠ TileFormat.bpp1.bytes ∧
    (present State.reset 0 (pay glyph)).din.length = TileFormat.bpp1.bytes := by decide

theorem witness_TileGetPixResult : 8 ≤ (8#8).toNat ∧ ((7#8).toNat < 8 ∧ 8 ≤ (8#8).toNat) ∧
    ((7#8).toNat < 8 ∧ (7#8).toNat < 8) := by decide

/-- A value accepted by every format that has a limit of at least 2. -/
theorem accepted_of_lt_two {f : TileFormat} {v : Byte} (h : v.toNat < 2) : acceptedValue f v := by
  intro n hn
  cases f <;> simp only [TileFormat.limit, config, planarLimitValue, Option.some.injEq, reduceCtorEq] at hn <;> omega

/-- The value at the limit in 1bpp and in 8bpp planar, one below it, and 255 where there is none. -/
theorem witness_TileSetPixResult :
    (glyphState.tileFmt.limit config = some 2 ∧ 2 ≤ (2#8).toNat) ∧ acceptedValue glyphState.tileFmt 1#8 ∧
    ((tileState .bpp8Planar []).tileFmt.limit config = some 16 ∧ 16 ≤ (16#8).toNat) ∧
    acceptedValue (tileState .mode7 []).tileFmt 255#8 ∧ (7#8).toNat < 8 :=
  ⟨by decide, accepted_of_lt_two (by decide), by decide, (by intro n hn; cases hn), by decide⟩

/-- The payload at the port. -/
def dinOf (p : Payload) : List Byte := (present State.reset 0 p).din

/-- Element 63 is the first at its limit; the 65th element after 64 accepted ones; 64 accepted elements. -/
theorem witness_TileEncodeResult :
    ((dinOf (pay (List.replicate 63 1 ++ [2])))[63]? = some 2#8 ∧ TileFormat.bpp1.limit config = some 2 ∧
      2 ≤ (2#8).toNat ∧ ∀ (j : Nat) (u : Byte), j < 63 → (dinOf (pay (List.replicate 63 1 ++ [2])))[j]? = some u →
        acceptedValue .bpp1 u) ∧
    (65 ≤ (dinOf (pay (List.replicate 65 1))).length ∧ ∀ (j : Nat) (u : Byte), j < 64 →
      (dinOf (pay (List.replicate 65 1)))[j]? = some u → acceptedValue .bpp1 u) ∧
    ((dinOf (pay (List.replicate 64 1))).length ≤ 64 ∧ ∀ u ∈ dinOf (pay (List.replicate 64 1)),
      acceptedValue .bpp1 u) := by
  refine ⟨⟨rfl, rfl, by decide, fun j u hj hu => ?_⟩, ⟨by decide, fun j u hj hu => ?_⟩, by decide, fun u hu => ?_⟩
  · have h : (List.replicate 63 1#8 ++ [2])[j]? = some u := hu
    rw [List.getElem?_append_left (by rw [List.length_replicate]; exact hj)] at h
    obtain rfl := List.eq_of_mem_replicate (List.mem_of_getElem? h)
    exact accepted_of_lt_two (by decide)
  · obtain rfl := List.eq_of_mem_replicate (List.mem_of_getElem? hu)
    exact accepted_of_lt_two (by decide)
  · obtain rfl := List.eq_of_mem_replicate hu
    exact accepted_of_lt_two (by decide)

theorem witness_EncodeThenDecode : TileFormat.ofCode 7 = some .bpp8Planar ∧
    (present State.reset 0 (pay (List.replicate 64 1))).din.length = 64 ∧
    ∀ u ∈ (present State.reset 0 (pay (List.replicate 64 1))).din, acceptedValue .bpp8Planar u := by
  refine ⟨rfl, by decide, fun u hu => ?_⟩
  obtain rfl := List.eq_of_mem_replicate hu
  exact accepted_of_lt_two (by decide)

/-- 8bpp planar, both cases: planes 4 to 7 zero, and byte 63 not zero. -/
theorem witness_LoadDecodeEncodeRead : ∀ bs ∈ [List.replicate 32 0xFF#8 ++ List.replicate 32 0,
      List.replicate 63 0#8 ++ [1]], ∀ h : bs.length < 65536,
    TileFormat.ofCode 7 = some .bpp8Planar ∧ bs.length = TileFormat.bpp8Planar.bytes ∧
    ∃ t cm, exec (.tileLoad 7) (present State.reset 0 (pay bs h)) = .next t ∧
      exec .tileDecode t = .next (answered t (okOut (.bytes cm))) ∧
      ∃ p : Payload, (present State.reset 0 p).din = cm := by
  intro bs hbs h
  have hl : bs.length = 64 := by
    rcases List.mem_cons.1 hbs with rfl | hbs
    · rfl
    · rw [List.mem_singleton.1 hbs]; rfl
  refine ⟨rfl, hl, answered ((present State.reset 0 (pay bs h)).putTile .bpp8Planar (Memory.ofBytes bs)) (okWord 0),
    colormap .bpp8Planar (Memory.ofBytes bs), ?_, rfl, ⟨⟨colormap .bpp8Planar (Memory.ofBytes bs), ?_⟩, rfl⟩⟩
  · show execTileLoad 7 _ = _
    simp only [execTileLoad, show TileFormat.ofCode 7 = some .bpp8Planar from rfl, lengthError_eq_none.2
      (show (present State.reset 0 (pay bs h)).din.length = TileFormat.bpp8Planar.bytes from hl)]
    rfl
  · exact (colormap_length .bpp8Planar (Memory.ofBytes bs)).trans_lt (by decide)

theorem witness_LoadThenRead : TileFormat.ofCode 0 = some .bpp1 ∧
    (present State.reset 0 (pay glyph)).din.length = TileFormat.bpp1.bytes := by decide

/-- Pixel 1 is the first of 16 or more; a tile all of whose pixels are at most 15; a palette of 256 entries. -/
theorem witness_PipeNativeResult : (indexState.palSize = .pal16 ∧
      (colormap indexState.tileFmt indexState.tile)[1]? = some 16#8 ∧ 16 ≤ (16#8).toNat ∧
      ∀ (j : Nat) (u : Byte), j < 1 → (colormap indexState.tileFmt indexState.tile)[j]? = some u → u.toNat < 16) ∧
    (∀ u ∈ colormap .mode7 [(0, 15#8)], u.toNat < 16) ∧ bigState.palSize = .pal256 := by
  refine ⟨⟨rfl, by decide, by decide, fun j u hj hu => ?_⟩, fifteen_pixels, rfl⟩
  obtain rfl : j = 0 := by omega
  obtain rfl : u = 15#8 := by
    have h : (colormap indexState.tileFmt indexState.tile)[0]? = some 15#8 := by decide
    exact (Option.some.inj (h.symm.trans hu)).symm
  decide

theorem witness_PipeDisplayResult : (∀ u ∈ colormap .mode7 [(0, 15#8)], u.toNat < 16) ∧
    bigState.palSize = .pal256 := ⟨fifteen_pixels, rfl⟩

theorem witness_PipeDirectResult : (colormap indexState.tileFmt indexState.tile)[63]? = some 0#8 := by decide

end Sys2Proof.Tests
end

section
/-! PROOFS. The state family: what a command can do with the state, said once over all commands; from it, the
invariant of R32 along every step, and that no command looks at the history (R25, R31). -/

namespace Sys2Proof.Machine

/-! ### The invariant, through the updates of the state -/

theorem State.inv_iff {s : State} : s.inv = true ↔
    (Memory.wf s.tile = true ∧ Cells.below s.tileFmt.bytes s.tile = true) ∧
      (Palette.wf s.pal = true ∧ Cells.below s.palSize.cap s.pal = true) := by
  simp [State.inv]

theorem answered_inv (s : State) (r : Response) : (answered s r).inv = s.inv := rfl

theorem State.putDraws_inv (s : State) (n : Nat) : (s.putDraws n).inv = s.inv := rfl

theorem State.reset_inv : State.reset.inv = true := rfl

theorem State.takeReset_inv (s : State) : s.takeReset.inv = true := rfl

theorem State.putTile_inv {s : State} (h : s.inv = true) {f : TileFormat} {m : Memory} (hwf : Memory.wf m = true)
    (hbelow : Cells.below f.bytes m = true) : (s.putTile f m).inv = true :=
  State.inv_iff.2 ⟨⟨hwf, hbelow⟩, (State.inv_iff.1 h).2⟩

theorem State.putPalette_inv {s : State} (h : s.inv = true) {z : PalSize} {p : Palette} (hwf : Palette.wf p = true)
    (hbelow : Cells.below z.cap p = true) : (s.putPalette z p).inv = true :=
  State.inv_iff.2 ⟨(State.inv_iff.1 h).1, ⟨hwf, hbelow⟩⟩

theorem State.putEntry_inv {s : State} (h : s.inv = true) {i : Nat} (hi : i < s.palSize.cap) (c : Color15) :
    (s.putEntry i c).inv = true := by
  obtain ⟨htile, hwf, hbelow⟩ := State.inv_iff.1 h
  exact State.inv_iff.2 ⟨htile, Palette.write_wf hwf i c, Palette.write_below hi hbelow c⟩

/-- Setting a pixel of the current tile keeps the invariant. -/
theorem State.setPixel_inv {s : State} (h : s.inv = true) {x y : Nat} (hx : x < 8) (hy : y < 8) (v : Byte) :
    (s.putTile s.tileFmt (setPixel s.tileFmt s.tile x y v)).inv = true := by
  obtain ⟨⟨hwf, hbelow⟩, -⟩ := State.inv_iff.1 h
  exact State.putTile_inv h (setPixel_wf hwf _ _ _ _) (setPixel_below hbelow hx hy v)

/-! ### The tiles and palettes that the writing commands build -/

/-- A tile that the scan of TILE.ENCODE accepts is canonical and has no byte beyond the format's: every element was
checked against the bounds before it was written. -/
theorem encodeFrom_ok {cfg : Config} {f : TileFormat} {i : Nat} {m m' : Memory} {vs : List Byte}
    (hwf : Memory.wf m = true) (hbelow : Cells.below f.bytes m = true) (h : encodeFrom cfg f i m vs = .ok m') :
    Memory.wf m' = true ∧ Cells.below f.bytes m' = true := by
  induction vs generalizing i m with
  | nil =>
    obtain rfl : m = m' := by simpa [encodeFrom] using h
    exact ⟨hwf, hbelow⟩
  | cons v vs ih =>
    simp only [encodeFrom] at h
    split at h
    · cases h
    · rename_i hpass
      obtain ⟨⟨hx, hy⟩, -⟩ := pixelError_eq_none.1 hpass
      exact ih (setPixel_wf hwf _ _ _ _) (setPixel_below hbelow hx hy v) h

/-- A palette payload of the exact length gives no entry beyond the capacity. -/
theorem ofColors_colorsOf_below {z : PalSize} {bs : List Byte} (h : bs.length = 2 * z.cap) :
    Cells.below z.cap (Palette.ofColors (colorsOf bs)) = true := by
  have hlen : (colorsOf bs).length = z.cap := by rw [colorsOf_length, h]; omega
  exact hlen ▸ Palette.ofColors_below (colorsOf bs)

/-! ### Another history -/

/-- The state with other responses before and other inputs to come. -/
def State.withHistory (s : State) (rs : List Response) (ins : List Input) : State :=
  { s with responses := rs, inputs := ins }

section
variable (s : State) (rs : List Response) (ins : List Input)

@[simp] theorem State.withHistory_tileFmt : (s.withHistory rs ins).tileFmt = s.tileFmt := rfl

@[simp] theorem State.withHistory_tile : (s.withHistory rs ins).tile = s.tile := rfl

@[simp] theorem State.withHistory_palSize : (s.withHistory rs ins).palSize = s.palSize := rfl

@[simp] theorem State.withHistory_pal : (s.withHistory rs ins).pal = s.pal := rfl

@[simp] theorem State.withHistory_draws : (s.withHistory rs ins).draws = s.draws := rfl

@[simp] theorem State.putTile_withHistory (f : TileFormat) (m : Memory) :
    (s.putTile f m).withHistory rs ins = (s.withHistory rs ins).putTile f m := rfl

@[simp] theorem State.putPalette_withHistory (z : PalSize) (p : Palette) :
    (s.putPalette z p).withHistory rs ins = (s.withHistory rs ins).putPalette z p := rfl

@[simp] theorem State.putEntry_withHistory (i : Nat) (c : Color15) :
    (s.putEntry i c).withHistory rs ins = (s.withHistory rs ins).putEntry i c := rfl

@[simp] theorem State.putDraws_withHistory (n : Nat) :
    (s.putDraws n).withHistory rs ins = (s.withHistory rs ins).putDraws n := rfl

end

/-- The state's own history gives the state back. -/
theorem State.withHistory_self {s t : State} (hr : t.responses = s.responses) (hi : t.inputs = s.inputs) :
    t.withHistory s.responses s.inputs = t := by
  rw [← hr, ← hi]
  rfl

/-! ### What a command can do -/

/-- What a command can do with the state `s` before it is answered. -/
inductive CommandUpdate (s : State) : State → Prop where
  /-- Nothing: every failure and every command that only reads. -/
  | keep : CommandUpdate s s
  /-- Count free values: the palette readers. -/
  | draw (n : Nat) : CommandUpdate s (s.putDraws n)
  /-- Replace the tile: TILE.NEW, TILE.LOAD, TILE.ENCODE. -/
  | tile (f : TileFormat) (m : Memory) (hwf : Memory.wf m = true) (hbelow : Cells.below f.bytes m = true) :
      CommandUpdate s (s.putTile f m)
  /-- Set one pixel of the tile: TILE.SETPIX. -/
  | pixel (x y : Nat) (v : Byte) (hx : x < 8) (hy : y < 8) :
      CommandUpdate s (s.putTile s.tileFmt (setPixel s.tileFmt s.tile x y v))
  /-- Replace the palette: PAL.LOAD. -/
  | palette (z : PalSize) (p : Palette) (hwf : Palette.wf p = true) (hbelow : Cells.below z.cap p = true) :
      CommandUpdate s (s.putPalette z p)
  /-- Write one palette entry: PAL.SET. -/
  | entry (i : Nat) (c : Color15) (hi : i < s.palSize.cap) : CommandUpdate s (s.putEntry i c)

theorem CommandUpdate.inv {s t : State} (h : CommandUpdate s t) (hs : s.inv = true) : t.inv = true := by
  cases h with
  | keep => exact hs
  | draw n => exact (s.putDraws_inv n).trans hs
  | tile f m hwf hbelow => exact State.putTile_inv hs hwf hbelow
  | pixel x y v hx hy => exact State.setPixel_inv hs hx hy v
  | palette z p hwf hbelow => exact State.putPalette_inv hs hwf hbelow
  | entry i c hi => exact State.putEntry_inv hs hi c

theorem CommandUpdate.responses {s t : State} (h : CommandUpdate s t) : t.responses = s.responses := by
  cases h <;> rfl

theorem CommandUpdate.inputs {s t : State} (h : CommandUpdate s t) : t.inputs = s.inputs := by
  cases h <;> rfl

/-- In the state `s` the meaning `m` makes one update and gives one response, and makes and gives the same under
every history with the same payload. -/
def Answers (m : State → Host.Outcome State Fault Refusal) (s : State) : Prop :=
  ∃ t r, CommandUpdate s t ∧ ∀ rs ins, (s.withHistory rs ins).din = s.din →
    m (s.withHistory rs ins) = .next (answered (t.withHistory rs ins) r)

section
variable {m : State → Host.Outcome State Fault Refusal} {s : State}

/-- Under the state's own history: the update, and the response. -/
theorem Answers.next (h : Answers m s) : ∃ t r, CommandUpdate s t ∧ m s = .next (answered t r) := by
  obtain ⟨t, r, hu, hm⟩ := h
  refine ⟨t, r, hu, ?_⟩
  have hself := hm s.responses s.inputs rfl
  rwa [State.withHistory_self hu.responses hu.inputs] at hself

/-- A meaning that ends in `raise` changes nothing. -/
theorem Answers.of_raise (e : CmdError) (h : ∀ rs ins, (s.withHistory rs ins).din = s.din →
    m (s.withHistory rs ins) = (s.withHistory rs ins).raise e) : Answers m s :=
  ⟨s, Response.failure e, .keep, h⟩

/-- A meaning that ends in `reply` makes the update of the state it replies in. -/
theorem Answers.of_reply {t : State} (hu : CommandUpdate s t) (w : BitVec 32) (d : Dout)
    (h : ∀ rs ins, (s.withHistory rs ins).din = s.din →
      m (s.withHistory rs ins) = (t.withHistory rs ins).reply w d) : Answers m s :=
  ⟨t, Response.success w d, hu, h⟩

end

/-! ### The commands with more than one ending -/

theorem execPalLoad_answers (sel : Byte) (s : State) : Answers (execPalLoad sel) s := by
  cases hz : PalSize.ofSelect sel with
  | none => exact .of_raise (illegalCommand 0x20 sel) fun _ _ _ => by simp [execPalLoad, hz, Instr.opcode]
  | some z =>
    cases hl : lengthError (2 * z.cap) s.din.length with
    | some e => exact .of_raise e fun _ _ hd => by simp [execPalLoad, hz, hd, hl]
    | none =>
      have hu := CommandUpdate.palette (s := s) z (Palette.ofColors (colorsOf s.din)) (Palette.ofColors_wf _)
        (ofColors_colorsOf_below (lengthError_eq_none.1 hl))
      exact .of_reply hu 0 .empty fun _ _ hd => by simp [execPalLoad, hz, hd, hl]

theorem execPalGet_answers (i : Byte) (s : State) : Answers (execPalGet i) s := by
  cases hi : indexError s.palSize i with
  | some e => exact .of_raise e fun _ _ _ => by simp [execPalGet, hi]
  | none =>
    obtain ⟨c, n, hr⟩ : ∃ c n, s.pal.read s.draws i.toNat = (c, n) := ⟨_, _, rfl⟩
    exact .of_reply (.draw n) (c.setWidth 32) .empty fun _ _ _ => by simp [execPalGet, hi, hr, reply15]

theorem execPalSet_answers (i : Byte) (c : Color15) (s : State) : Answers (execPalSet i c) s := by
  cases hi : indexError s.palSize i with
  | some e => exact .of_raise e fun _ _ _ => by simp [execPalSet, hi]
  | none =>
    exact .of_reply (.entry i.toNat c (indexError_eq_none.1 hi)) 0 .empty fun _ _ _ => by simp [execPalSet, hi]

theorem execTileNew_answers (f : Byte) (s : State) : Answers (execTileNew f) s := by
  cases hf : TileFormat.ofCode f with
  | none => exact .of_raise (illegalCommand 0x30 f) fun _ _ _ => by simp [execTileNew, hf, Instr.opcode]
  | some fmt =>
    exact .of_reply (.tile fmt Memory.zero Memory.zero_wf rfl) 0 .empty fun _ _ _ => by simp [execTileNew, hf]

theorem execTileLoad_answers (f : Byte) (s : State) : Answers (execTileLoad f) s := by
  cases hf : TileFormat.ofCode f with
  | none => exact .of_raise (illegalCommand 0x31 f) fun _ _ _ => by simp [execTileLoad, hf, Instr.opcode]
  | some fmt =>
    cases hl : lengthError fmt.bytes s.din.length with
    | some e => exact .of_raise e fun _ _ hd => by simp [execTileLoad, hf, hd, hl]
    | none =>
      have hu := CommandUpdate.tile (s := s) fmt (Memory.ofBytes s.din) (Memory.ofBytes_wf _)
        (lengthError_eq_none.1 hl ▸ Memory.ofBytes_below s.din)
      exact .of_reply hu 0 .empty fun _ _ hd => by simp [execTileLoad, hf, hd, hl]

theorem execTileGetPix_answers (x y : Byte) (s : State) : Answers (execTileGetPix x y) s := by
  cases hxy : coordError x.toNat y.toNat with
  | some e => exact .of_raise e fun _ _ _ => by simp [execTileGetPix, hxy]
  | none =>
    exact .of_reply .keep ((getPixel s.tileFmt s.tile x.toNat y.toNat).setWidth 32) .empty fun _ _ _ => by
      simp [execTileGetPix, hxy]

theorem execTileSetPix_answers (x y v : Byte) (s : State) : Answers (execTileSetPix x y v) s := by
  cases hp : pixelError config s.tileFmt x.toNat y.toNat v with
  | some e => exact .of_raise e fun _ _ _ => by simp [execTileSetPix, hp]
  | none =>
    obtain ⟨⟨hx, hy⟩, -⟩ := pixelError_eq_none.1 hp
    exact .of_reply (.pixel x.toNat y.toNat v hx hy) 0 .empty fun _ _ _ => by simp [execTileSetPix, hp]

theorem execTileEncode_answers (f : Byte) (s : State) : Answers (execTileEncode f) s := by
  cases hf : TileFormat.ofCode f with
  | none => exact .of_raise (illegalCommand 0x36 f) fun _ _ _ => by simp [execTileEncode, hf, Instr.opcode]
  | some fmt =>
    cases he : encodeFrom config fmt 0 Memory.zero s.din with
    | error e => exact .of_raise e fun _ _ hd => by simp [execTileEncode, hf, hd, he]
    | ok m =>
      obtain ⟨hwf, hbelow⟩ := encodeFrom_ok Memory.zero_wf rfl he
      exact .of_reply (.tile fmt m hwf hbelow) 0 .empty fun _ _ hd => by simp [execTileEncode, hf, hd, he]

theorem execPipeNative_answers (s : State) : Answers execPipeNative s := by
  cases hi : firstIndexError s.palSize (colormap s.tileFmt s.tile) with
  | some e => exact .of_raise e fun _ _ _ => by simp [execPipeNative, hi]
  | none =>
    obtain ⟨cs, n, hr⟩ : ∃ cs n, s.pal.readAll s.draws (colormap s.tileFmt s.tile) = (cs, n) := ⟨_, _, rfl⟩
    exact .of_reply (.draw n) 0 (.color15s cs) fun _ _ _ => by simp [execPipeNative, hi, hr]

theorem execPipeDisplay_answers (s : State) : Answers execPipeDisplay s := by
  cases hi : firstIndexError s.palSize (colormap s.tileFmt s.tile) with
  | some e => exact .of_raise e fun _ _ _ => by simp [execPipeDisplay, hi]
  | none =>
    obtain ⟨cs, n, hr⟩ : ∃ cs n, s.pal.readAll s.draws (colormap s.tileFmt s.tile) = (cs, n) := ⟨_, _, rfl⟩
    exact .of_reply (.draw n) 0 (.color24s (cs.map to24)) fun _ _ _ => by simp [execPipeDisplay, hi, hr]

/-! ### Every command, and every word -/

/-- Everything a command can do: one update, one response, whatever the history. -/
theorem exec_answers (i : Instr) (s : State) : Answers (exec i) s := by
  cases i with
  | palLoad sel => exact execPalLoad_answers sel s
  | palGet k => exact execPalGet_answers k s
  | palSet k c => exact execPalSet_answers k c s
  | tileNew f => exact execTileNew_answers f s
  | tileLoad f => exact execTileLoad_answers f s
  | tileGetPix x y => exact execTileGetPix_answers x y s
  | tileSetPix x y v => exact execTileSetPix_answers x y v s
  | tileEncode f => exact execTileEncode_answers f s
  | pipeNative => exact execPipeNative_answers s
  | pipeDisplay => exact execPipeDisplay_answers s
  | tileRead => exact .of_reply .keep 0 (.bytes (s.tile.toBytes s.tileFmt.bytes)) fun _ _ _ => rfl
  | tileDecode => exact .of_reply .keep 0 (.bytes (colormap s.tileFmt s.tile)) fun _ _ _ => rfl
  | pipeDirect pa =>
    exact .of_reply .keep 0 (.color15s ((colormap s.tileFmt s.tile).map fun c => direct15 c pa)) fun _ _ _ => rfl
  -- The colour commands reply with a word of their operands.
  | _ => exact .of_reply .keep _ .empty fun _ _ _ => rfl

/-- A presented word, decodable or not, is a command's meaning or the ILLEGAL_COMMAND answer. -/
theorem runCommand_answers (c : Command) (s : State) : Answers (runCommand c) s := by
  cases hc : decode c.word with
  | some i => simpa only [Answers, runCommand, hc] using exec_answers i s
  | none =>
    exact .of_raise (illegalCommand (opcField c.word) (aField c.word)) fun _ _ _ => by simp only [runCommand, hc]

/-! ### The obligations -/

/-- Every step, whatever is at the port, keeps the invariant. -/
theorem step_inv {s t : State} (hs : s.inv = true) (h : step s = .next t) : t.inv = true := by
  obtain ⟨-, hstep⟩ | ⟨_, -, hstep⟩ | ⟨c, _, -, hstep⟩ := step_cases s <;> rw [hstep] at h
  · cases h
    exact hs
  · cases h
    exact s.takeReset_inv
  · obtain ⟨t', r, hu, hrun⟩ := (runCommand_answers c s).next
    rw [hrun] at h
    cases h
    exact (answered_inv t' r).trans (hu.inv hs)

/-- Settles O10. -/
theorem resetSatisfiesInvariant : Obligations.ResetSatisfiesInvariant :=
  State.reset_inv

/-- Settles O11: a step idles, resets, or makes one of the updates of `CommandUpdate`, and each keeps the invariant. -/
theorem stepKeepsInvariant : Obligations.StepKeepsInvariant :=
  fun _ _ => step_inv

/-- Settles O20: the same update and the same response under both histories, by `exec_answers`. -/
theorem historyDoesNotMatter : Obligations.HistoryDoesNotMatter := by
  intro i s rs ins hdin
  obtain ⟨t, r, -, hexec⟩ := exec_answers i s
  have hown := hexec s.responses s.inputs rfl
  exact ⟨_, _, r, hown, hexec rs ins hdin, rfl, rfl, ⟨rfl, rfl, rfl, rfl⟩, rfl⟩

end Sys2Proof.Machine
end

section
/-! PROOFS. The memory family: the reading commands leave the four items (R59, R220), the writing commands are
idempotent (R59), what is written to the palette is read back (R63, R144). -/

namespace Sys2Proof.Machine

/-- The opcodes of the six writing commands (R59): PAL.LOAD, PAL.SET, TILE.NEW, TILE.LOAD, TILE.SETPIX, TILE.ENCODE. -/
def writerOpcodes : List Byte := [0x20#8, 0x22#8, 0x30#8, 0x31#8, 0x34#8, 0x36#8]

/-- The opcodes of the three palette readers: PAL.GET, PIPE.NATIVE, PIPE.DISPLAY. -/
def paletteReaderOpcodes : List Byte := [0x21#8, 0x40#8, 0x41#8]

/-! ### The palette commands that succeed -/

/-- An index is within the capacity where there are 256 entries, or where it is below 16 (R246). -/
theorem PalSize.lt_cap_iff {z : PalSize} {i : Byte} : i.toNat < z.cap ↔ z = .pal256 ∨ i.toNat < 16 := by
  have := i.isLt
  cases z <;> simp [PalSize.cap]
  omega

/-- Reading a written entry gives it and draws nothing. -/
theorem Palette.read_of_entry {p : Palette} {i : Nat} {c : Color15} (h : p.entry i = some c) (n : Nat) :
    p.read n i = (c, n) := by
  simp [Palette.read, h]

/-- Writing the same colour to the same entry again changes nothing. -/
@[simp] theorem Palette.write_write_same (p : Palette) (i : Nat) (c : Color15) :
    (p.write i c).write i c = p.write i c := by
  unfold Palette.write
  induction p with
  | nil => simp [Cells.put]
  | cons d p ih =>
    by_cases heq : d.1 = i
    · simp [Cells.put, heq]
    · by_cases hlt : i < d.1
      · simp [Cells.put, heq, hlt]
      · simp [Cells.put, heq, hlt, ih]

/-- PAL.LOAD with a legal select and the exact length. -/
theorem execPalLoad_of_length {sel : Byte} {z : PalSize} {s : State} (hz : PalSize.ofSelect sel = some z)
    (hl : s.din.length = 2 * z.cap) :
    execPalLoad sel s = (s.putPalette z (Palette.ofColors (colorsOf s.din))).reply 0 .empty := by
  simp [execPalLoad, hz, lengthError_eq_none.2 hl]

/-- PAL.GET of a written entry. -/
theorem execPalGet_of_entry {i : Byte} {c : Color15} {s : State} (hi : i.toNat < s.palSize.cap)
    (hc : s.pal.entry i.toNat = some c) : execPalGet i s = s.reply (c.setWidth 32) .empty := by
  simp only [execPalGet, indexError_eq_none.2 hi, Palette.read_of_entry hc, reply15]
  rfl

/-- PAL.SET with a valid index. -/
theorem execPalSet_of_lt {i : Byte} {s : State} (hi : i.toNat < s.palSize.cap) (c : Color15) :
    execPalSet i c s = (s.putEntry i.toNat c).reply 0 .empty := by
  simp [execPalSet, indexError_eq_none.2 hi]

/-! ### What is written to the palette is read back -/

/-- Two bytes, low byte first, as one word. -/
theorem setWidth_append_bytes (hi lo : Byte) :
    (hi ++ lo).setWidth 32 = lo.setWidth 32 ||| (hi.setWidth 32 <<< 8) := by
  ext k hk
  simp only [BitVec.getElem_setWidth, BitVec.getLsbD_append, BitVec.getElem_or, BitVec.getElem_shiftLeft]
  by_cases h : k < 8
  · simp [h]
  · simp [h, BitVec.getLsbD_of_ge lo k (by omega)]

/-- Settles O33: what PAL.SET and PAL.LOAD leave in an entry (`Palette.entry_write_same`, `Palette.ofColors_entry`) is
what `execPalGet_of_entry` answers. -/
theorem paletteReadBack : Obligations.PaletteReadBack := by
  refine ⟨fun i c s hi => ?_, fun sel i s n hsel hl hi => ?_⟩
  · have hcap : i.toNat < s.palSize.cap := PalSize.lt_cap_iff.2 hi
    exact ⟨_, execPalSet_of_lt hcap c, execPalGet_of_entry hcap (Palette.entry_write_same s.pal i.toNat c)⟩
  · obtain ⟨z, hz, rfl⟩ : ∃ z, PalSize.ofSelect sel = some z ∧ z.cap = n := by
      obtain ⟨rfl, rfl⟩ | ⟨rfl, rfl⟩ := hsel
      · exact ⟨.pal16, rfl, rfl⟩
      · exact ⟨.pal256, rfl, rfl⟩
    have hentry : (Palette.ofColors (colorsOf s.din)).entry i.toNat =
        some (s.din.getD (2 * i.toNat + 1) 0 ++ s.din.getD (2 * i.toNat) 0) := by
      rw [Palette.ofColors_entry, colorsOf_getElem? s.din i.toNat (by omega)]
    rw [← setWidth_append_bytes]
    exact ⟨_, execPalLoad_of_length hz hl, execPalGet_of_entry hi hentry⟩

/-! ### The reading commands -/

theorem execPalGet_reads (i : Byte) (s : State) :
    ∃ n r, execPalGet i s = .next (answered (s.putDraws n) r) := by
  cases hi : indexError s.palSize i with
  | some e => exact ⟨s.draws, Response.failure e, by simp only [execPalGet, hi]; rfl⟩
  | none => exact ⟨(s.pal.read s.draws i.toNat).2, _, by simp only [execPalGet, hi]; rfl⟩

theorem execPipeNative_reads (s : State) : ∃ n r, execPipeNative s = .next (answered (s.putDraws n) r) := by
  cases hi : firstIndexError s.palSize (colormap s.tileFmt s.tile) with
  | some e => exact ⟨s.draws, Response.failure e, by simp only [execPipeNative, hi]; rfl⟩
  | none =>
    exact ⟨(s.pal.readAll s.draws (colormap s.tileFmt s.tile)).2, _, by simp only [execPipeNative, hi]; rfl⟩

theorem execPipeDisplay_reads (s : State) : ∃ n r, execPipeDisplay s = .next (answered (s.putDraws n) r) := by
  cases hi : firstIndexError s.palSize (colormap s.tileFmt s.tile) with
  | some e => exact ⟨s.draws, Response.failure e, by simp only [execPipeDisplay, hi]; rfl⟩
  | none =>
    exact ⟨(s.pal.readAll s.draws (colormap s.tileFmt s.tile)).2, _, by simp only [execPipeDisplay, hi]; rfl⟩

theorem execTileGetPix_reads (x y : Byte) (s : State) : ∃ r, execTileGetPix x y s = .next (answered s r) := by
  cases hxy : coordError x.toNat y.toNat with
  | some e => exact ⟨Response.failure e, by simp only [execTileGetPix, hxy]; rfl⟩
  | none => exact ⟨_, by simp only [execTileGetPix, hxy]; rfl⟩

/-- Everything a reading command can do: answer, and count free values if it is a palette reader. -/
theorem exec_reads {i : Instr} (hi : i.opcode ∉ writerOpcodes) (s : State) :
    ∃ n r, exec i s = .next (answered (s.putDraws n) r) ∧ (i.opcode ∉ paletteReaderOpcodes → n = s.draws) := by
  cases i with
  | palLoad | palSet | tileNew | tileLoad | tileSetPix | tileEncode =>
    exact absurd (by simp [writerOpcodes, Instr.opcode]) hi
  | palGet k =>
    obtain ⟨n, r, h⟩ := execPalGet_reads k s
    exact ⟨n, r, h, fun hn => absurd (by simp [paletteReaderOpcodes, Instr.opcode]) hn⟩
  | pipeNative =>
    obtain ⟨n, r, h⟩ := execPipeNative_reads s
    exact ⟨n, r, h, fun hn => absurd (by simp [paletteReaderOpcodes, Instr.opcode]) hn⟩
  | pipeDisplay =>
    obtain ⟨n, r, h⟩ := execPipeDisplay_reads s
    exact ⟨n, r, h, fun hn => absurd (by simp [paletteReaderOpcodes, Instr.opcode]) hn⟩
  | tileGetPix x y =>
    obtain ⟨r, h⟩ := execTileGetPix_reads x y s
    exact ⟨s.draws, r, h, fun _ => rfl⟩
  -- The others have one ending, a reply in the state they found.
  | _ => exact ⟨s.draws, _, rfl, fun _ => rfl⟩

/-- Settles O18: a reading command counts free values at most (`exec_reads`), and the count is none of the four
items. -/
theorem readingCommandsLeaveItems : Obligations.ReadingCommandsLeaveItems := by
  intro i s t hi h
  obtain ⟨n, r, hexec, hdraws⟩ := exec_reads hi s
  rw [hexec] at h
  cases h
  exact ⟨⟨rfl, rfl, rfl, rfl⟩, hdraws⟩

/-! ### A pixel written twice -/

/-- Different planes of one row lie in different bytes. -/
theorem planeAddr_injective {l : Layout} {p q y : Nat} (hy : y < 8) (h : planeAddr l p y = planeAddr l q y) :
    p = q := by
  cases l <;> simp only [planeAddr, planarAddr, intertwinedAddr] at h
  case planar => omega
  case intertwined => omega
  case mixed => split at h <;> split at h <;> omega

/-- Clearing and setting a bit again gives the same byte. -/
@[simp] theorem setPlaneBit_setPlaneBit (b : Byte) (x p : Nat) (v : Byte) :
    setPlaneBit (setPlaneBit b x p v) x p v = setPlaneBit b x p v := by
  unfold setPlaneBit
  ext k hk
  simp only [BitVec.getElem_or, BitVec.getElem_and, BitVec.getElem_not]
  grind

section
variable {l : Layout} {x y : Nat} {v : Byte}

/-- The encoding loop leaves every byte but the plane bytes of its row. -/
theorem setPlanes_read_other {k n : Nat} (h : ∀ p < n, k ≠ planeAddr l p y) (m : Memory) :
    (setPlanes l m x y v n).read k = m.read k := by
  induction n with
  | zero => rfl
  | succ n ih =>
    rw [setPlanes, Memory.read_write_other (h n (Nat.lt_succ_self n)), ih fun p hp => h p (Nat.lt_succ_of_lt hp)]

/-- The encoding loop sets the pixel's bit in each plane byte of its row, once. -/
theorem setPlanes_read_plane (hy : y < 8) {p n : Nat} (hp : p < n) (m : Memory) :
    (setPlanes l m x y v n).read (planeAddr l p y) = setPlaneBit (m.read (planeAddr l p y)) x p v := by
  induction n with
  | zero => exact absurd hp (Nat.not_lt_zero p)
  | succ n ih =>
    rw [setPlanes]
    by_cases hpn : p = n
    · subst hpn
      have hother : ∀ q < p, planeAddr l p y ≠ planeAddr l q y := fun q hq h =>
        Nat.ne_of_gt hq (planeAddr_injective hy h)
      rw [Memory.read_write_same, setPlanes_read_other hother]
    · have hother : planeAddr l p y ≠ planeAddr l n y := fun h => hpn (planeAddr_injective hy h)
      rw [Memory.read_write_other hother, ih (by omega)]

/-- Running the encoding loop again with the same pixel and value changes nothing. -/
theorem setPlanes_setPlanes {m : Memory} (hwf : Memory.wf m = true) (hy : y < 8) (n : Nat) :
    setPlanes l (setPlanes l m x y v n) x y v n = setPlanes l m x y v n := by
  have hwf' := setPlanes_wf hwf l x y v n
  refine Memory.ext (setPlanes_wf hwf' l x y v n) hwf' fun k => ?_
  by_cases hk : ∃ p < n, k = planeAddr l p y
  · obtain ⟨p, hp, rfl⟩ := hk
    simp only [setPlanes_read_plane hy hp, setPlaneBit_setPlaneBit]
  · rw [setPlanes_read_other fun p hp h => hk ⟨p, hp, h⟩]

end

/-- Writing the same byte to the same offset again changes nothing. -/
theorem Memory.write_write_same {m : Memory} (hwf : Memory.wf m = true) (k : Nat) (v : Byte) :
    (m.write k v).write k v = m.write k v := by
  have hwf' := Memory.write_wf hwf k v
  refine Memory.ext (Memory.write_wf hwf' k v) hwf' fun a => ?_
  simp only [Memory.read_write]
  split <;> rfl

/-- Setting a pixel to the same value again changes nothing. -/
theorem setPixel_setPixel {m : Memory} (hwf : Memory.wf m = true) (f : TileFormat) {y : Nat} (hy : y < 8) (x : Nat)
    (v : Byte) : setPixel f (setPixel f m x y v) x y v = setPixel f m x y v := by
  cases hl : f.layout with
  | none => simp only [setPixel, hl, Memory.write_write_same hwf]
  | some l => simp only [setPixel, hl, setPlanes_setPlanes hwf hy]

/-! ### The writing commands -/

/-- In the state `s` the meaning `m` ends in a state that it leaves as it is when it is run there again. -/
def Settles (m : State → Host.Outcome State Fault Refusal) (s : State) : Prop :=
  ∃ t r, t.inputs = s.inputs ∧ m s = .next (answered t r) ∧ m t = .next (answered t r)

section
variable {m : State → Host.Outcome State Fault Refusal} {s : State}

/-- A failure changes nothing, so it repeats. -/
theorem Settles.of_raise {e : CmdError} (h : m s = s.raise e) : Settles m s :=
  ⟨s, Response.failure e, rfl, h, h⟩

/-- A success repeats where the meaning, run in the state it replied in, replies in that state again. -/
theorem Settles.of_reply (t : State) (hin : t.inputs = s.inputs) (h : m s = t.reply 0 .empty)
    (hagain : m t = t.reply 0 .empty) : Settles m s :=
  ⟨t, okWord 0, hin, h, hagain⟩

end

theorem execPalLoad_settles (sel : Byte) (s : State) : Settles (execPalLoad sel) s := by
  cases hz : PalSize.ofSelect sel with
  | none => exact .of_raise (by simp only [execPalLoad, hz]; rfl)
  | some z =>
    cases hl : lengthError (2 * z.cap) s.din.length with
    | some e => exact .of_raise (e := e) (by simp only [execPalLoad, hz, hl])
    | none =>
      have hlen := lengthError_eq_none.1 hl
      exact .of_reply (s.putPalette z (Palette.ofColors (colorsOf s.din))) rfl (execPalLoad_of_length hz hlen)
        (execPalLoad_of_length hz hlen)

theorem execPalSet_settles (i : Byte) (c : Color15) (s : State) : Settles (execPalSet i c) s := by
  cases hi : indexError s.palSize i with
  | some e => exact .of_raise (e := e) (by simp only [execPalSet, hi])
  | none =>
    have hcap := indexError_eq_none.1 hi
    have htwice : (s.putEntry i.toNat c).putEntry i.toNat c = s.putEntry i.toNat c := by simp [State.putEntry]
    have hagain := execPalSet_of_lt (s := s.putEntry i.toNat c) hcap c
    rw [htwice] at hagain
    exact .of_reply (s.putEntry i.toNat c) rfl (execPalSet_of_lt hcap c) hagain

theorem execTileNew_settles (f : Byte) (s : State) : Settles (execTileNew f) s := by
  cases hf : TileFormat.ofCode f with
  | none => exact .of_raise (by simp only [execTileNew, hf]; rfl)
  | some fmt =>
    exact .of_reply (s.putTile fmt Memory.zero) rfl (by simp only [execTileNew, hf])
      (by simp only [execTileNew, hf]; rfl)

theorem execTileLoad_settles (f : Byte) (s : State) : Settles (execTileLoad f) s := by
  cases hf : TileFormat.ofCode f with
  | none => exact .of_raise (by simp only [execTileLoad, hf]; rfl)
  | some fmt =>
    cases hl : lengthError fmt.bytes s.din.length with
    | some e => exact .of_raise (e := e) (by simp only [execTileLoad, hf, hl])
    | none =>
      exact .of_reply (s.putTile fmt (Memory.ofBytes s.din)) rfl (by simp only [execTileLoad, hf, hl])
        (by simp only [execTileLoad, hf, State.putTile_din, hl]; rfl)

theorem execTileSetPix_settles (x y v : Byte) {s : State} (hs : s.inv = true) : Settles (execTileSetPix x y v) s := by
  cases hp : pixelError config s.tileFmt x.toNat y.toNat v with
  | some e => exact .of_raise (e := e) (by simp only [execTileSetPix, hp])
  | none =>
    obtain ⟨⟨-, hy⟩, -⟩ := pixelError_eq_none.1 hp
    obtain ⟨⟨hwf, -⟩, -⟩ := State.inv_iff.1 hs
    refine .of_reply (s.putTile s.tileFmt (setPixel s.tileFmt s.tile x.toNat y.toNat v)) rfl
      (by simp only [execTileSetPix, hp]) ?_
    simp only [execTileSetPix, State.putTile_tileFmt, State.putTile_tile, hp, setPixel_setPixel hwf _ hy]
    rfl

theorem execTileEncode_settles (f : Byte) (s : State) : Settles (execTileEncode f) s := by
  cases hf : TileFormat.ofCode f with
  | none => exact .of_raise (by simp only [execTileEncode, hf]; rfl)
  | some fmt =>
    cases he : encodeFrom config fmt 0 Memory.zero s.din with
    | error e => exact .of_raise (e := e) (by simp only [execTileEncode, hf, he])
    | ok m =>
      exact .of_reply (s.putTile fmt m) rfl (by simp only [execTileEncode, hf, he])
        (by simp only [execTileEncode, hf, State.putTile_din, he]; rfl)

/-- Every writing command settles: what it writes depends on the operands and the payload alone, or, for PAL.SET and
TILE.SETPIX, is one write that changes nothing when repeated. -/
theorem exec_settles {i : Instr} (hi : i.opcode ∈ writerOpcodes) {s : State} (hs : s.inv = true) :
    Settles (exec i) s := by
  cases i with
  | palLoad sel => exact execPalLoad_settles sel s
  | palSet k c => exact execPalSet_settles k c s
  | tileNew f => exact execTileNew_settles f s
  | tileLoad f => exact execTileLoad_settles f s
  | tileSetPix x y v => exact execTileSetPix_settles x y v hs
  | tileEncode f => exact execTileEncode_settles f s
  | _ => exact absurd hi (by simp [writerOpcodes, Instr.opcode])

/-- Settles O19: the second run begins in the state the first ended in, with one response more, and by
`historyDoesNotMatter` that response makes no difference. -/
theorem writingCommandsIdempotent : Obligations.WritingCommandsIdempotent := by
  intro i s t hs hi h
  obtain ⟨t', r, hin, hfirst, hsecond⟩ := exec_settles hi hs
  rw [hfirst] at h
  cases h
  obtain ⟨t₂, u, -, hown, hagain, -, -, hitems, -⟩ :=
    historyDoesNotMatter i t' (t'.responses ++ [r]) s.inputs (State.din_congr hin.symm)
  rw [hsecond] at hown
  cases hown
  exact ⟨u, hagain, hitems⟩

end Sys2Proof.Machine
end

section
/-! PROOFS. The encoding family: the used bits of a word decide its command, and from that the round trip; which opcodes
decode; what a response carries; the table of the ten formats. -/

namespace Sys2Proof

/-! ### A word and a mask, field by field -/

@[simp] theorem opcField_and (w m : CmdWord) : opcField (w &&& m) = opcField w &&& opcField m :=
  BitVec.extractLsb'_and

@[simp] theorem aField_and (w m : CmdWord) : aField (w &&& m) = aField w &&& aField m :=
  BitVec.extractLsb'_and

@[simp] theorem bField_and (w m : CmdWord) : bField (w &&& m) = bField w &&& bField m :=
  BitVec.extractLsb'_and

@[simp] theorem cField_and (w m : CmdWord) : cField (w &&& m) = cField w &&& cField m :=
  BitVec.extractLsb'_and

@[simp] theorem wField_and (w m : CmdWord) : wField (w &&& m) = wField w &&& wField m :=
  BitVec.extractLsb'_and

/-- A word is given by its five fields (R81). -/
theorem eq_mkWord_iff {w : CmdWord} {o a b c : Byte} {d : BitVec 32} :
    w = mkWord o a b c d ↔ opcField w = o ∧ aField w = a ∧ bField w = b ∧ cField w = c ∧ wField w = d := by
  constructor
  · rintro rfl
    simp
  · rintro ⟨rfl, rfl, rfl, rfl, rfl⟩
    exact (mkWord_fields w).symm

/-- The opcode field is the word's high byte, as a number. -/
theorem opcField_toNat (w : CmdWord) : (opcField w).toNat = w.toNat / 2 ^ 56 := by
  rw [opcField, toNat_extract]
  omega

/-- The full mask of a byte field, as the opcode table writes it. -/
@[simp] theorem byte_and_ones (x : Byte) : x &&& 0xFF#8 = x := BitVec.and_allOnes

/-- The full mask of field W, as the opcode table writes it. -/
@[simp] theorem wField_and_ones (x : BitVec 32) : x &&& 0xFFFFFFFF#32 = x := BitVec.and_allOnes

/-- A mask of the low `k` bits keeps those bits and clears the others. -/
theorem and_lowMask {n k : Nat} (x : BitVec n) :
    x &&& (BitVec.allOnes k).setWidth n = (x.extractLsb' 0 k).setWidth n := by
  ext i hi
  simp [Bool.and_comm, BitVec.getLsbD_eq_getElem hi]

/-- A field under the mask of its low `k` bits is a widened operand exactly when its low `k` bits are the operand. -/
theorem and_lowMask_eq_setWidth_iff {n k : Nat} (hk : k ≤ n) {x : BitVec n} {v : BitVec k} :
    x &&& (BitVec.allOnes k).setWidth n = v.setWidth n ↔ x.extractLsb' 0 k = v := by
  rw [and_lowMask]
  exact ⟨fun h => by simpa [BitVec.setWidth_setWidth_of_le _ hk] using congrArg (BitVec.setWidth k) h, fun h => h ▸ rfl⟩

theorem wField_and_eq_color15Operand {w : CmdWord} {c : Color15} :
    wField w &&& 0x0000FFFF#32 = color15Operand c ↔ color15Field w = c :=
  and_lowMask_eq_setWidth_iff (show 16 ≤ 32 by omega)

theorem aField_and_eq_paletteArg {w : CmdWord} {pa : BitVec 3} :
    aField w &&& 0x07#8 = pa.setWidth 8 ↔ paletteArgField w = pa :=
  and_lowMask_eq_setWidth_iff (show 3 ≤ 8 by omega)

/-! ### The used bits of each operand format (R88)

A word agrees with an encoded word on the used bits of a format exactly when the fields that the format reads are the
encoded ones. One lemma per format, by what it reads beside the opcode: nothing; A; A and B; A, B and C; a Color15; A and
a Color15; a Color24; A and a Color24; a palette argument. -/

section
variable {w : CmdWord} {o a b c : Byte} {k : Color15} {d : Color24} {pa : BitVec 3}

theorem masked_none_iff : w &&& 0xFF00000000000000#64 = mkWord o 0#8 0#8 0#8 0#32 ↔ opcField w = o := by
  rw [show 0xFF00000000000000#64 = mkWord 0xFF#8 0#8 0#8 0#8 0#32 from rfl, eq_mkWord_iff]
  simp

theorem masked_a_iff : w &&& 0xFFFF000000000000#64 = mkWord o a 0#8 0#8 0#32 ↔ opcField w = o ∧ aField w = a := by
  rw [show 0xFFFF000000000000#64 = mkWord 0xFF#8 0xFF#8 0#8 0#8 0#32 from rfl, eq_mkWord_iff]
  simp

theorem masked_ab_iff : w &&& 0xFFFFFF0000000000#64 = mkWord o a b 0#8 0#32 ↔
    opcField w = o ∧ aField w = a ∧ bField w = b := by
  rw [show 0xFFFFFF0000000000#64 = mkWord 0xFF#8 0xFF#8 0xFF#8 0#8 0#32 from rfl, eq_mkWord_iff]
  simp

theorem masked_abc_iff : w &&& 0xFFFFFFFF00000000#64 = mkWord o a b c 0#32 ↔
    opcField w = o ∧ aField w = a ∧ bField w = b ∧ cField w = c := by
  rw [show 0xFFFFFFFF00000000#64 = mkWord 0xFF#8 0xFF#8 0xFF#8 0xFF#8 0#32 from rfl, eq_mkWord_iff]
  simp

theorem masked_color15_iff : w &&& 0xFF0000000000FFFF#64 = mkWord o 0#8 0#8 0#8 (color15Operand k) ↔
    opcField w = o ∧ color15Field w = k := by
  rw [show 0xFF0000000000FFFF#64 = mkWord 0xFF#8 0#8 0#8 0#8 0xFFFF#32 from rfl, eq_mkWord_iff]
  simp [wField_and_eq_color15Operand]

theorem masked_a_color15_iff : w &&& 0xFFFF00000000FFFF#64 = mkWord o a 0#8 0#8 (color15Operand k) ↔
    opcField w = o ∧ aField w = a ∧ color15Field w = k := by
  rw [show 0xFFFF00000000FFFF#64 = mkWord 0xFF#8 0xFF#8 0#8 0#8 0xFFFF#32 from rfl, eq_mkWord_iff]
  simp [wField_and_eq_color15Operand]

theorem masked_color24_iff : w &&& 0xFF000000FFFFFFFF#64 = mkWord o 0#8 0#8 0#8 d ↔
    opcField w = o ∧ wField w = d := by
  rw [show 0xFF000000FFFFFFFF#64 = mkWord 0xFF#8 0#8 0#8 0#8 0xFFFFFFFF#32 from rfl, eq_mkWord_iff]
  simp

theorem masked_a_color24_iff : w &&& 0xFFFF0000FFFFFFFF#64 = mkWord o a 0#8 0#8 d ↔
    opcField w = o ∧ aField w = a ∧ wField w = d := by
  rw [show 0xFFFF0000FFFFFFFF#64 = mkWord 0xFF#8 0xFF#8 0#8 0#8 0xFFFFFFFF#32 from rfl, eq_mkWord_iff]
  simp

theorem masked_paletteArg_iff : w &&& 0xFF07000000000000#64 = mkWord o (pa.setWidth 8) 0#8 0#8 0#32 ↔
    opcField w = o ∧ paletteArgField w = pa := by
  rw [show 0xFF07000000000000#64 = mkWord 0xFF#8 0x07#8 0#8 0#8 0#32 from rfl, eq_mkWord_iff]
  simp [aField_and_eq_paletteArg]

end

end Sys2Proof

namespace Sys2Proof.Machine

/-! ### The used bits decide the command -/

/-- A word decodes only to a command of its own opcode. -/
theorem opcField_of_decode {w : CmdWord} {i : Instr} (h : decode w = some i) : opcField w = i.opcode := by
  unfold decode at h
  split at h
  case h_30 => cases h -- No opcode of the table: the word decodes to nothing.
  all_goals
    cases h
    apply BitVec.eq_of_toNat_eq
    assumption

theorem opcField_encode (i : Instr) : opcField (encode i) = i.opcode := by
  cases i <;> exact opcField_mkWord _ _ _ _ _

/-- Every command uses its whole opcode. -/
theorem opcField_usedBits (i : Instr) : opcField (usedBits i) = 0xFF#8 := by
  cases i <;> simp [usedBits, opcField]

/-- The encoder writes nothing but used bits: zero in every ignored bit (R89). -/
theorem encode_and_usedBits (i : Instr) : encode i &&& usedBits i = encode i := by
  cases i with
  | tileRead | tileDecode | pipeNative | pipeDisplay => exact masked_none_iff.2 (opcField_mkWord ..)
  | palLoad | palGet | tileNew | tileLoad | tileEncode =>
    exact masked_a_iff.2 ⟨opcField_mkWord .., aField_mkWord ..⟩
  | tileGetPix => exact masked_ab_iff.2 ⟨opcField_mkWord .., aField_mkWord .., bField_mkWord ..⟩
  | c15Make | c24Make | tileSetPix =>
    exact masked_abc_iff.2 ⟨opcField_mkWord .., aField_mkWord .., bField_mkWord .., cField_mkWord ..⟩
  | c15To24 | c15GetR | c15GetG | c15GetB =>
    exact masked_color15_iff.2 ⟨opcField_mkWord .., color15Field_mkWord ..⟩
  | c15SetR | c15SetG | c15SetB | palSet =>
    exact masked_a_color15_iff.2 ⟨opcField_mkWord .., aField_mkWord .., color15Field_mkWord ..⟩
  | c24To15 | c24GetR | c24GetG | c24GetB => exact masked_color24_iff.2 ⟨opcField_mkWord .., wField_mkWord ..⟩
  | c24SetR | c24SetG | c24SetB =>
    exact masked_a_color24_iff.2 ⟨opcField_mkWord .., aField_mkWord .., wField_mkWord ..⟩
  | pipeDirect => exact masked_paletteArg_iff.2 ⟨opcField_mkWord .., paletteArgField_mkWord ..⟩

/-- A word decodes to a command exactly when it agrees with the encoder's word on the bits the command uses: both sides
fix the opcode, and with the opcode fixed both say that the fields of the format hold the operands. -/
theorem decode_eq_some_iff {w : CmdWord} {i : Instr} : decode w = some i ↔ w &&& usedBits i = encode i := by
  by_cases hopc : opcField w = i.opcode
  · cases i with
    | tileRead | tileDecode | pipeNative | pipeDisplay =>
      simp [decode, usedBits, encode, Instr.opcode, hopc, masked_none_iff]
    | palLoad | palGet | tileNew | tileLoad | tileEncode =>
      simp [decode, usedBits, encode, Instr.opcode, hopc, masked_a_iff]
    | tileGetPix => simp [decode, usedBits, encode, Instr.opcode, hopc, masked_ab_iff]
    | c15Make | c24Make | tileSetPix => simp [decode, usedBits, encode, Instr.opcode, hopc, masked_abc_iff]
    | c15To24 | c15GetR | c15GetG | c15GetB =>
      simp [decode, usedBits, encode, Instr.opcode, hopc, masked_color15_iff]
    | c15SetR | c15SetG | c15SetB | palSet =>
      simp [decode, usedBits, encode, Instr.opcode, hopc, masked_a_color15_iff]
    | c24To15 | c24GetR | c24GetG | c24GetB =>
      simp [decode, usedBits, encode, Instr.opcode, hopc, masked_color24_iff]
    | c24SetR | c24SetG | c24SetB => simp [decode, usedBits, encode, Instr.opcode, hopc, masked_a_color24_iff]
    | pipeDirect => simp [decode, usedBits, encode, Instr.opcode, hopc, masked_paletteArg_iff]
  · refine iff_of_false (fun h => hopc (opcField_of_decode h)) fun h => hopc ?_
    simpa [opcField_usedBits, opcField_encode] using congrArg opcField h

/-- Settles O1: the encoder's word agrees with itself on the used bits. -/
theorem decodeOfEncode : Obligations.DecodeOfEncode := fun i =>
  decode_eq_some_iff.2 (encode_and_usedBits i)

/-- Settles O2: the two directions of `decode_eq_some_iff`. -/
theorem usedBitsDecideTheCommand : Obligations.UsedBitsDecideTheCommand :=
  ⟨fun _ _ h => decode_eq_some_iff.1 h,
    fun _ _ _ h hagree => decode_eq_some_iff.2 (hagree.trans (decode_eq_some_iff.1 h))⟩

/-- Settles O3: the opcode of every command lies in one of the three ranges, and each number of the ranges selects a
command. -/
theorem decodesExactlyDefinedOpcodes : Obligations.DecodesExactlyDefinedOpcodes := by
  intro w
  simp only [definedOpcode, ← opcField_toNat]
  constructor
  · intro h
    obtain ⟨i, hi⟩ := Option.isSome_iff_exists.1 h
    rw [opcField_of_decode hi]
    cases i <;> simp [Instr.opcode]
  · unfold decode
    rintro (⟨hlo, hhi⟩ | ⟨hlo, hhi⟩ | ⟨hlo, hhi⟩) <;> interval_cases (opcField w).toNat <;> rfl

/-- Settles O4: each of the twelve words is the encoder's word of the command beside it. -/
theorem assemblerWordsDecode : Obligations.AssemblerWordsDecode :=
  ⟨decodeOfEncode (.c15To24 0x7FFF), decodeOfEncode (.c15Make 31 0 31), decodeOfEncode (.c15SetG 0xFF 0x8000),
    decodeOfEncode (.c24To15 0x00FF8040), decodeOfEncode (.palGet 15), decodeOfEncode (.palSet 5 0x03E0),
    decodeOfEncode (.tileNew 6), decodeOfEncode (.tileGetPix 3 4), decodeOfEncode (.tileSetPix 3 4 2),
    decodeOfEncode (.tileEncode 1), decodeOfEncode .pipeNative, decodeOfEncode (.pipeDirect 5)⟩

/-! ### How each command ends, and what its response carries -/

/-- In the state `s` the command `i` fails in the state it found, or succeeds with one response of the shape that the
table of R84 gives it, in a state with the responses it found. -/
def Ends (i : Instr) (s : State) : Prop :=
  (∃ e, exec i s = s.raise e) ∨
    ∃ (t : State) (w : BitVec 32) (d : Dout),
      exec i s = t.reply w d ∧ t.responses = s.responses ∧ resultShape i s (Response.success w d)

section
variable {i : Instr} {s : State}

theorem Ends.of_raise (e : CmdError) (h : exec i s = s.raise e) : Ends i s :=
  .inl ⟨e, h⟩

theorem Ends.of_reply (t : State) (w : BitVec 32) (d : Dout) (h : exec i s = t.reply w d)
    (hresp : t.responses = s.responses) (hshape : resultShape i s (Response.success w d)) : Ends i s :=
  .inr ⟨t, w, d, h, hresp, hshape⟩

end

/-- A value set into a wider word leaves the rest of the word zero. -/
theorem toNat_setWidth_lt {n k : Nat} (v : BitVec n) : (v.setWidth k).toNat < 2 ^ n := by
  rw [BitVec.toNat_setWidth]
  exact (Nat.mod_le _ _).trans_lt v.isLt

/-- PIPE.NATIVE and PIPE.DISPLAY read one colour for each of the 64 pixels (R221, R222). -/
theorem readAll_colormap_length (p : Palette) (n : Nat) (f : TileFormat) (m : Memory) :
    (p.readAll n (colormap f m)).1.length = 64 := by
  rw [Palette.readAll_length, colormap_length]

theorem palLoad_ends (sel : Byte) (s : State) : Ends (.palLoad sel) s := by
  cases hz : PalSize.ofSelect sel with
  | none => exact .of_raise (illegalCommand 0x20 sel) (by simp only [exec, execPalLoad, hz]; rfl)
  | some z =>
    cases hl : lengthError (2 * z.cap) s.din.length with
    | some e => exact .of_raise e (by simp only [exec, execPalLoad, hz, hl])
    | none => exact .of_reply _ 0 .empty (execPalLoad_of_length hz (lengthError_eq_none.1 hl)) rfl ⟨rfl, rfl⟩

theorem palGet_ends (k : Byte) (s : State) : Ends (.palGet k) s := by
  cases hk : indexError s.palSize k with
  | some e => exact .of_raise e (by simp only [exec, execPalGet, hk])
  | none =>
    obtain ⟨c, n, hr⟩ : ∃ c n, s.pal.read s.draws k.toNat = (c, n) := ⟨_, _, rfl⟩
    exact .of_reply (s.putDraws n) (c.setWidth 32) .empty (by simp only [exec, execPalGet, hk, hr, reply15]) rfl
      ⟨toNat_setWidth_lt c, rfl⟩

theorem palSet_ends (k : Byte) (c : Color15) (s : State) : Ends (.palSet k c) s := by
  cases hk : indexError s.palSize k with
  | some e => exact .of_raise e (by simp only [exec, execPalSet, hk])
  | none => exact .of_reply _ 0 .empty (execPalSet_of_lt (indexError_eq_none.1 hk) c) rfl ⟨rfl, rfl⟩

theorem tileNew_ends (f : Byte) (s : State) : Ends (.tileNew f) s := by
  cases hf : TileFormat.ofCode f with
  | none => exact .of_raise (illegalCommand 0x30 f) (by simp only [exec, execTileNew, hf]; rfl)
  | some fmt =>
    exact .of_reply (s.putTile fmt Memory.zero) 0 .empty (by simp only [exec, execTileNew, hf]) rfl ⟨rfl, rfl⟩

theorem tileLoad_ends (f : Byte) (s : State) : Ends (.tileLoad f) s := by
  cases hf : TileFormat.ofCode f with
  | none => exact .of_raise (illegalCommand 0x31 f) (by simp only [exec, execTileLoad, hf]; rfl)
  | some fmt =>
    cases hl : lengthError fmt.bytes s.din.length with
    | some e => exact .of_raise e (by simp only [exec, execTileLoad, hf, hl])
    | none =>
      exact .of_reply (s.putTile fmt (Memory.ofBytes s.din)) 0 .empty (by simp only [exec, execTileLoad, hf, hl]) rfl
        ⟨rfl, rfl⟩

theorem tileGetPix_ends (x y : Byte) (s : State) : Ends (.tileGetPix x y) s := by
  cases hxy : coordError x.toNat y.toNat with
  | some e => exact .of_raise e (by simp only [exec, execTileGetPix, hxy])
  | none =>
    exact .of_reply s ((getPixel s.tileFmt s.tile x.toNat y.toNat).setWidth 32) .empty
      (by simp only [exec, execTileGetPix, hxy]) rfl ⟨toNat_setWidth_lt _, rfl⟩

theorem tileSetPix_ends (x y v : Byte) (s : State) : Ends (.tileSetPix x y v) s := by
  cases hp : pixelError config s.tileFmt x.toNat y.toNat v with
  | some e => exact .of_raise e (by simp only [exec, execTileSetPix, hp])
  | none =>
    exact .of_reply (s.putTile s.tileFmt (setPixel s.tileFmt s.tile x.toNat y.toNat v)) 0 .empty
      (by simp only [exec, execTileSetPix, hp]) rfl ⟨rfl, rfl⟩

theorem tileEncode_ends (f : Byte) (s : State) : Ends (.tileEncode f) s := by
  cases hf : TileFormat.ofCode f with
  | none => exact .of_raise (illegalCommand 0x36 f) (by simp only [exec, execTileEncode, hf]; rfl)
  | some fmt =>
    cases he : encodeFrom config fmt 0 Memory.zero s.din with
    | error e => exact .of_raise e (by simp only [exec, execTileEncode, hf, he])
    | ok m => exact .of_reply (s.putTile fmt m) 0 .empty (by simp only [exec, execTileEncode, hf, he]) rfl ⟨rfl, rfl⟩

theorem pipeNative_ends (s : State) : Ends .pipeNative s := by
  cases hi : firstIndexError s.palSize (colormap s.tileFmt s.tile) with
  | some e => exact .of_raise e (by simp only [exec, execPipeNative, hi])
  | none =>
    exact .of_reply (s.putDraws (s.pal.readAll s.draws (colormap s.tileFmt s.tile)).2) 0 (.color15s _)
      (by simp only [exec, execPipeNative, hi]; rfl) rfl ⟨rfl, _, rfl, readAll_colormap_length ..⟩

theorem pipeDisplay_ends (s : State) : Ends .pipeDisplay s := by
  cases hi : firstIndexError s.palSize (colormap s.tileFmt s.tile) with
  | some e => exact .of_raise e (by simp only [exec, execPipeDisplay, hi])
  | none =>
    exact .of_reply (s.putDraws (s.pal.readAll s.draws (colormap s.tileFmt s.tile)).2) 0 (.color24s _)
      (by simp only [exec, execPipeDisplay, hi]; rfl) rfl
      ⟨rfl, _, rfl, (List.length_map ..).trans (readAll_colormap_length ..)⟩

/-- Every command fails as `raise` does or succeeds with a response of its row of R84. -/
theorem exec_ends (i : Instr) (s : State) : Ends i s := by
  cases i with
  | palLoad sel => exact palLoad_ends sel s
  | palGet k => exact palGet_ends k s
  | palSet k c => exact palSet_ends k c s
  | tileNew f => exact tileNew_ends f s
  | tileLoad f => exact tileLoad_ends f s
  | tileGetPix x y => exact tileGetPix_ends x y s
  | tileSetPix x y v => exact tileSetPix_ends x y v s
  | tileEncode f => exact tileEncode_ends f s
  | pipeNative => exact pipeNative_ends s
  | pipeDisplay => exact pipeDisplay_ends s
  | tileRead => exact .of_reply s 0 (.bytes _) rfl rfl ⟨rfl, _, rfl, Memory.toBytes_length ..⟩
  | tileDecode => exact .of_reply s 0 (.bytes _) rfl rfl ⟨rfl, _, rfl, colormap_length ..⟩
  | pipeDirect pa =>
    exact .of_reply s 0 (.color15s _) rfl rfl ⟨rfl, _, rfl, (List.length_map ..).trans (colormap_length ..)⟩
  -- A Color24 result fills the word.
  | c15To24 | c24Make | c24SetR | c24SetG | c24SetB => exact .of_reply s _ .empty rfl rfl rfl
  -- A Color15 result, or one channel, is set into the word.
  | _ => exact .of_reply s _ .empty rfl rfl ⟨toNat_setWidth_lt _, rfl⟩

/-- The five kind codes (R241). -/
theorem ErrorKind.code_mem (k : ErrorKind) : k.code ∈ [1#3, 2#3, 3#3, 4#3, 7#3] := by
  cases k <;> simp [ErrorKind.code]

/-- Settles O13: `raise` and `reply` each give one response, and its fields are those of `Response.failure` and
`Response.success`. -/
theorem responseFields : Obligations.ResponseFields := by
  intro i s
  obtain ⟨e, h⟩ | ⟨t, w, d, h, hresp, -⟩ := exec_ends i s
  · exact ⟨_, Response.failure e, h, rfl, nofun, fun _ => ⟨e.kind.code_mem, rfl, rfl⟩⟩
  · exact ⟨_, Response.success w d, h, congrArg (· ++ _) hresp, fun _ => ⟨rfl, rfl, rfl⟩, nofun⟩

/-- Settles O14: the shape of the success is the one `exec_ends` gives. -/
theorem resultPlacement : Obligations.ResultPlacement := by
  intro i s
  obtain ⟨e, h⟩ | ⟨t, w, d, h, hresp, hshape⟩ := exec_ends i s
  · exact ⟨_, Response.failure e, h, rfl, nofun⟩
  · exact ⟨_, Response.success w d, h, congrArg (· ++ _) hresp, fun _ => hshape⟩

/-! ### The ten formats -/

/-- Settles O36: code by code, and format by format. -/
theorem formatTable : Obligations.FormatTable := by
  refine ⟨fun c => ?_, rfl, fun f => ?_⟩
  · simp only [← BitVec.toNat_inj]
    unfold TileFormat.ofCode
    split
    case h_11 => simp_all -- No code of the table.
    all_goals simp [*]
  · cases f <;> rfl

end Sys2Proof.Machine
end

section
/-! PROOFS. The colour family: what each colour command answers, through the channels a colour is made of (R115 to
R130); the round trips of the conversions (R131); the tile and the palette ignore each other (R114, R144, R190,
R223). -/

namespace Sys2Proof.Machine

/-! ### A store that a command ignores -/

/-- The meaning `m` neither reads nor writes the store that `put` replaces: with every content of that store, in the
state `s`, it does the same to everything else and leaves that content. -/
def IgnoresStore {α β : Type} (put : State → α → β → State) (m : State → Host.Outcome State Fault Refusal)
    (s : State) : Prop :=
  ∃ t, ∀ a b, m (put s a b) = .next (put t a b)

/-! The tile commands with more than one ending. -/

theorem execTileNew_ignoresPalette (f : Byte) (s : State) : IgnoresStore State.putPalette (execTileNew f) s := by
  cases hf : TileFormat.ofCode f with
  | none => exact ⟨s.respond _, fun _ _ => by simp only [execTileNew, hf]; rfl⟩
  | some fmt => exact ⟨(s.putTile fmt Memory.zero).respond _, fun _ _ => by simp only [execTileNew, hf]; rfl⟩

theorem execTileLoad_ignoresPalette (f : Byte) (s : State) : IgnoresStore State.putPalette (execTileLoad f) s := by
  cases hf : TileFormat.ofCode f with
  | none => exact ⟨s.respond _, fun _ _ => by simp only [execTileLoad, hf]; rfl⟩
  | some fmt =>
    cases hl : lengthError fmt.bytes s.din.length with
    | some e => exact ⟨s.respond _, fun _ _ => by simp only [execTileLoad, hf, State.putPalette_din, hl]; rfl⟩
    | none =>
      exact ⟨(s.putTile fmt (Memory.ofBytes s.din)).respond _, fun _ _ => by
        simp only [execTileLoad, hf, State.putPalette_din, hl]; rfl⟩

theorem execTileGetPix_ignoresPalette (x y : Byte) (s : State) :
    IgnoresStore State.putPalette (execTileGetPix x y) s := by
  cases hxy : coordError x.toNat y.toNat with
  | some e => exact ⟨s.respond _, fun _ _ => by simp only [execTileGetPix, hxy]; rfl⟩
  | none =>
    exact ⟨answered s (okWord ((getPixel s.tileFmt s.tile x.toNat y.toNat).setWidth 32)), fun _ _ => by
      simp only [execTileGetPix, hxy]; rfl⟩

theorem execTileSetPix_ignoresPalette (x y v : Byte) (s : State) :
    IgnoresStore State.putPalette (execTileSetPix x y v) s := by
  cases hp : pixelError config s.tileFmt x.toNat y.toNat v with
  | some e => exact ⟨s.respond _, fun _ _ => by simp only [execTileSetPix, State.putPalette_tileFmt, hp]; rfl⟩
  | none =>
    exact ⟨(s.putTile s.tileFmt (setPixel s.tileFmt s.tile x.toNat y.toNat v)).respond _, fun _ _ => by
      simp only [execTileSetPix, State.putPalette_tileFmt, hp]; rfl⟩

theorem execTileEncode_ignoresPalette (f : Byte) (s : State) :
    IgnoresStore State.putPalette (execTileEncode f) s := by
  cases hf : TileFormat.ofCode f with
  | none => exact ⟨s.respond _, fun _ _ => by simp only [execTileEncode, hf]; rfl⟩
  | some fmt =>
    cases he : encodeFrom config fmt 0 Memory.zero s.din with
    | error e => exact ⟨s.respond _, fun _ _ => by simp only [execTileEncode, hf, State.putPalette_din, he]; rfl⟩
    | ok m =>
      exact ⟨(s.putTile fmt m).respond _, fun _ _ => by
        simp only [execTileEncode, hf, State.putPalette_din, he]; rfl⟩

/-- The colour commands, the tile commands and PIPE.DIRECT ignore the palette. -/
theorem exec_ignoresPalette {i : Instr} (hi : commandGroup i = 1 ∨ commandGroup i = 3 ∨ i.opcode = 0x42#8)
    (s : State) : IgnoresStore State.putPalette (exec i) s := by
  cases i with
  | tileNew f => exact execTileNew_ignoresPalette f s
  | tileLoad f => exact execTileLoad_ignoresPalette f s
  | tileGetPix x y => exact execTileGetPix_ignoresPalette x y s
  | tileSetPix x y v => exact execTileSetPix_ignoresPalette x y v s
  | tileEncode f => exact execTileEncode_ignoresPalette f s
  | tileRead => exact ⟨answered s (okOut (.bytes (s.tile.toBytes s.tileFmt.bytes))), fun _ _ => rfl⟩
  | tileDecode => exact ⟨answered s (okOut (.bytes (colormap s.tileFmt s.tile))), fun _ _ => rfl⟩
  | pipeDirect pa =>
    exact ⟨answered s (okOut (.color15s ((colormap s.tileFmt s.tile).map fun c => direct15 c pa))), fun _ _ => rfl⟩
  -- The commands that the hypothesis leaves out.
  | palLoad | palGet | palSet | pipeNative | pipeDisplay => simp [commandGroup, Instr.opcode] at hi
  -- The colour commands reply with a word of their operands.
  | _ => exact ⟨s.respond _, fun _ _ => rfl⟩

/-! The palette commands. -/

theorem execPalLoad_ignoresTile (sel : Byte) (s : State) : IgnoresStore State.putTile (execPalLoad sel) s := by
  cases hz : PalSize.ofSelect sel with
  | none => exact ⟨s.respond _, fun _ _ => by simp only [execPalLoad, hz]; rfl⟩
  | some z =>
    cases hl : lengthError (2 * z.cap) s.din.length with
    | some e => exact ⟨s.respond _, fun _ _ => by simp only [execPalLoad, hz, State.putTile_din, hl]; rfl⟩
    | none =>
      exact ⟨(s.putPalette z (Palette.ofColors (colorsOf s.din))).respond _, fun _ _ => by
        simp only [execPalLoad, hz, State.putTile_din, hl]; rfl⟩

theorem execPalGet_ignoresTile (k : Byte) (s : State) : IgnoresStore State.putTile (execPalGet k) s := by
  cases hk : indexError s.palSize k with
  | some e => exact ⟨s.respond _, fun _ _ => by simp only [execPalGet, State.putTile_palSize, hk]; rfl⟩
  | none =>
    obtain ⟨c, n, hr⟩ : ∃ c n, s.pal.read s.draws k.toNat = (c, n) := ⟨_, _, rfl⟩
    exact ⟨(s.putDraws n).respond _, fun _ _ => by
      simp only [execPalGet, State.putTile_palSize, State.putTile_pal, State.putTile_draws, hk, hr]; rfl⟩

theorem execPalSet_ignoresTile (k : Byte) (c : Color15) (s : State) :
    IgnoresStore State.putTile (execPalSet k c) s := by
  cases hk : indexError s.palSize k with
  | some e => exact ⟨s.respond _, fun _ _ => by simp only [execPalSet, State.putTile_palSize, hk]; rfl⟩
  | none =>
    exact ⟨(s.putEntry k.toNat c).respond _, fun _ _ => by simp only [execPalSet, State.putTile_palSize, hk]; rfl⟩

/-- The colour commands and the palette commands ignore the tile. -/
theorem exec_ignoresTile {i : Instr} (hi : commandGroup i = 1 ∨ commandGroup i = 2) (s : State) :
    IgnoresStore State.putTile (exec i) s := by
  cases i with
  | palLoad sel => exact execPalLoad_ignoresTile sel s
  | palGet k => exact execPalGet_ignoresTile k s
  | palSet k c => exact execPalSet_ignoresTile k c s
  -- The commands that the hypothesis leaves out.
  | tileNew | tileLoad | tileRead | tileGetPix | tileSetPix | tileDecode | tileEncode | pipeNative | pipeDisplay
  | pipeDirect => simp [commandGroup, Instr.opcode] at hi
  -- The colour commands reply with a word of their operands.
  | _ => exact ⟨s.respond _, fun _ _ => rfl⟩

/-- Settles O21: a command that ignores a store ignores in particular the content the store has. -/
theorem tileAndPaletteIndependent : Obligations.TileAndPaletteIndependent := by
  refine ⟨fun i s z p hi => ?_, fun i s f m hi => ?_⟩
  · obtain ⟨t, ht⟩ := exec_ignoresPalette hi s
    exact ⟨t.putPalette s.palSize s.pal, ht s.palSize s.pal, rfl, rfl, ht z p⟩
  · obtain ⟨t, ht⟩ := exec_ignoresTile hi s
    exact ⟨t.putTile s.tileFmt s.tile, ht s.tileFmt s.tile, rfl, rfl, ht f m⟩

/-! ### The fields of a word -/

/-- A Color15 operand is the low half of field W, and so of the command word (R88). -/
theorem color15Field_eq (w : CmdWord) : color15Field w = w.extractLsb' 0 16 :=
  BitVec.extractLsb'_extractLsb'_of_le (by decide)

/-- A field of a field is a field of the whole. -/
theorem extract_extract {n lo len lo' len' : Nat} (h : lo' + len' ≤ len) (x : BitVec n) :
    (x.extractLsb' lo len).extractLsb' lo' len' = x.extractLsb' (lo + lo') len' := by
  ext k hk
  simp [show lo' + k < len by omega, Nat.add_assoc]

/-- A field as a number. -/
theorem setWidth_extract_eq_ofNat {n : Nat} (x : BitVec n) (lo len k : Nat) :
    (x.extractLsb' lo len).setWidth k = BitVec.ofNat k (x.toNat / 2 ^ lo % 2 ^ len) := by
  apply BitVec.eq_of_toNat_eq
  rw [BitVec.toNat_setWidth, toNat_extract, BitVec.toNat_ofNat]

/-- The lowest field as a number. -/
theorem setWidth_extract_zero_eq_ofNat {n : Nat} (x : BitVec n) (len k : Nat) :
    (x.extractLsb' 0 len).setWidth k = BitVec.ofNat k (x.toNat % 2 ^ len) := by
  rw [setWidth_extract_eq_ofNat, Nat.pow_zero, Nat.div_one]

/-- Zero bits above a value widen it. -/
theorem zero_append_eq_setWidth {a n : Nat} (v : BitVec n) : 0#a ++ v = v.setWidth (a + n) := by
  rw [BitVec.setWidth_eq_append (by omega)]
  simp

/-- A value shifted into its field has zero above it and below it. -/
theorem setWidth_shiftLeft_eq_append {a b c : Nat} (v : BitVec b) :
    v.setWidth (a + (b + c)) <<< c = 0#a ++ (v ++ 0#c) := by
  rw [zero_append_eq_setWidth, BitVec.setWidth_append_eq_shiftLeft_setWidth_or]
  simp

/-- Clear a field with a mask and set a value into it: the field is replaced, what lies above and below it stays. -/
theorem clear_or_field {a b c : Nat} {mask : BitVec (a + (b + c))}
    (hmask : mask = BitVec.allOnes a ++ (0#b ++ BitVec.allOnes c)) (x : BitVec (a + (b + c))) (v : BitVec b) :
    x &&& mask ||| v.setWidth (a + (b + c)) <<< c = x.extractLsb' (b + c) a ++ (v ++ x.extractLsb' 0 c) := by
  have hx : x.extractLsb' (b + c) a ++ (x.extractLsb' c b ++ x.extractLsb' 0 c) = x := by
    rw [BitVec.extractLsb'_append_extractLsb'_eq_extractLsb' (by omega), BitVec.extractLsb'_append_extractLsb']
  calc x &&& mask ||| v.setWidth (a + (b + c)) <<< c
      = (x.extractLsb' (b + c) a ++ (x.extractLsb' c b ++ x.extractLsb' 0 c)) &&& mask ||| 0#a ++ (v ++ 0#c) := by
        rw [hx, setWidth_shiftLeft_eq_append]
    _ = x.extractLsb' (b + c) a ++ (v ++ x.extractLsb' 0 c) := by
        simp [hmask]

/-- The same for the lowest field. -/
theorem clear_or_lowField {a b : Nat} {mask : BitVec (a + b)} (hmask : mask = BitVec.allOnes a ++ 0#b)
    (x : BitVec (a + b)) (v : BitVec b) :
    x &&& mask ||| v.setWidth (a + b) = x.extractLsb' b a ++ v := by
  simpa using clear_or_field (c := 0) (by simpa using hmask) x v

/-! ### The colours and their channels -/

/-- A Color15 is bit 15 and its three channels (R110). -/
theorem color15_eq_append (c : Color15) : c.extractLsb' 15 1 ++ (blue15 c ++ (green15 c ++ red15 c)) = c := by
  apply BitVec.eq_of_toNat_eq
  simp only [toNat_append_add, blue15, green15, red15, toNat_extract]
  omega

/-- A Color24 is its high byte and its three channels (R112). -/
theorem color24_eq_append (d : Color24) : d.extractLsb' 24 8 ++ (red24 d ++ (green24 d ++ blue24 d)) = d := by
  apply BitVec.eq_of_toNat_eq
  simp only [toNat_append_add, red24, green24, blue24, toNat_extract]
  omega

section
variable (r g b : BitVec 5)

/-- A packed Color15 as the number its channels make (R111). -/
theorem toNat_pack15 : (pack15 r g b).toNat = b.toNat * 2 ^ 10 + g.toNat * 2 ^ 5 + r.toNat := by
  simp only [pack15, toNat_append_add, BitVec.toNat_zero]
  omega

@[simp] theorem red15_pack15 : red15 (pack15 r g b) = r := by
  apply BitVec.eq_of_toNat_eq
  rw [red15, toNat_extract, toNat_pack15]
  omega

@[simp] theorem green15_pack15 : green15 (pack15 r g b) = g := by
  apply BitVec.eq_of_toNat_eq
  rw [green15, toNat_extract, toNat_pack15]
  omega

@[simp] theorem blue15_pack15 : blue15 (pack15 r g b) = b := by
  apply BitVec.eq_of_toNat_eq
  rw [blue15, toNat_extract, toNat_pack15]
  omega

end

section
variable (r g b : Byte)

/-- A packed Color24 as the number its channels make (R113). -/
theorem toNat_pack24 : (pack24 r g b).toNat = r.toNat * 2 ^ 16 + g.toNat * 2 ^ 8 + b.toNat := by
  simp only [pack24, toNat_append_add, BitVec.toNat_zero]
  omega

@[simp] theorem red24_pack24 : red24 (pack24 r g b) = r := by
  apply BitVec.eq_of_toNat_eq
  rw [red24, toNat_extract, toNat_pack24]
  omega

@[simp] theorem green24_pack24 : green24 (pack24 r g b) = g := by
  apply BitVec.eq_of_toNat_eq
  rw [green24, toNat_extract, toNat_pack24]
  omega

@[simp] theorem blue24_pack24 : blue24 (pack24 r g b) = b := by
  apply BitVec.eq_of_toNat_eq
  rw [blue24, toNat_extract, toNat_pack24]
  omega

end

/-- A mask of four fields, zero in the highest, masks the other three one by one. -/
theorem zero_append_and_fields {a b c d : Nat} (w : BitVec a) (x x' : BitVec b) (y y' : BitVec c) (z z' : BitVec d) :
    0#a ++ ((x &&& x') ++ ((y &&& y') ++ (z &&& z'))) = (w ++ (x ++ (y ++ z))) &&& (0#a ++ (x' ++ (y' ++ z'))) := by
  simp

/-- Packing a Color15's own channels clears bit 15. -/
theorem pack15_channels (c : Color15) : pack15 (red15 c) (green15 c) (blue15 c) = c &&& 0x7FFF#16 := by
  have h := zero_append_and_fields (c.extractLsb' 15 1) (blue15 c) (BitVec.allOnes 5) (green15 c) (BitVec.allOnes 5)
    (red15 c) (BitVec.allOnes 5)
  simp only [BitVec.and_allOnes] at h
  exact h.trans (congrArg (· &&& 0x7FFF#16) (color15_eq_append c))

/-- A channel shifted left by 3 and back is the channel. -/
@[simp] theorem narrow_widen (v : BitVec 5) : narrow (widen v) = v :=
  BitVec.extractLsb'_append_eq_left

/-- A channel shifted right by 3 and back has lost its low three bits. -/
@[simp] theorem widen_narrow (v : Byte) : widen (narrow v) = v &&& 0xF8#8 := by
  calc widen (narrow v)
      = (v.extractLsb' 3 5 ++ v.extractLsb' 0 3) &&& (BitVec.allOnes 5 ++ 0#3) := by
        rw [BitVec.and_append, BitVec.and_allOnes, BitVec.and_zero]; rfl
    _ = v &&& 0xF8#8 := congrArg (· &&& 0xF8#8) BitVec.extractLsb'_append_extractLsb'

/-- Packing a Color24's own channels under one mask each is masking the Color24. -/
theorem pack24_and_channels (d : Color24) (r g b : Byte) :
    pack24 (red24 d &&& r) (green24 d &&& g) (blue24 d &&& b) = d &&& pack24 r g b :=
  (zero_append_and_fields (d.extractLsb' 24 8) (red24 d) r (green24 d) g (blue24 d) b).trans
    (congrArg (· &&& pack24 r g b) (color24_eq_append d))

/-! ### The round trips (R131) -/

theorem to15_to24 (c : Color15) : to15 (to24 c) = c &&& 0x7FFF#16 := by
  simp [to15, to24, pack15_channels]

theorem to24_to15 (d : Color24) : to24 (to15 d) = d &&& 0x00F8F8F8#32 := by
  simp only [to15, to24, red15_pack15, green15_pack15, blue15_pack15, widen_narrow, pack24_and_channels]
  rfl

/-- Clearing bit 15 changes nothing where it is 0. -/
theorem and_0x7FFF_of_bit15 {c : Color15} (h : c.getLsbD 15 = false) : c &&& 0x7FFF#16 = c := by
  have htop : c.extractLsb' 15 1 = 0#1 := by
    ext k hk
    obtain rfl : k = 0 := by omega
    simpa using h
  rw [← pack15_channels]
  conv_rhs => rw [← color15_eq_append c, htop]
  rfl

/-- Settles O29: where bit 15 is 0, `to15` is a left inverse of `to24`. -/
theorem conversionRoundTrips : Obligations.ConversionRoundTrips := by
  refine ⟨to15_to24, to24_to15, fun c c' hc hc' heq => ?_⟩
  calc c = to15 (to24 c) := by rw [to15_to24, and_0x7FFF_of_bit15 hc]
    _ = to15 (to24 c') := by rw [heq]
    _ = c' := by rw [to15_to24, and_0x7FFF_of_bit15 hc']

/-! ### The results of the colour commands

Each command's meaning is `reply` with a word of its operand; the lemma of that word puts it in the claim's form. -/

/-- `reply` with a word and no output, the word in another form. -/
theorem State.reply_word (s : State) {w w' : BitVec 32} (h : w = w') :
    s.reply w .empty = .next (answered s (okWord w')) := by
  rw [State.reply_eq, Response.success_empty, h]

theorem reply15_eq (s : State) {c c' : Color15} (h : c = c') :
    reply15 s c = .next (answered s (okWord (c'.setWidth 32))) :=
  s.reply_word (congrArg _ h)

theorem reply24_eq (s : State) {d d' : Color24} (h : d = d') :
    reply24 s d = .next (answered s (okWord (d'.setWidth 32))) :=
  s.reply_word (h.trans (BitVec.setWidth_eq d').symm)

/-- A Color24 result, each channel shifted to its place. -/
theorem to24_eq_shifts (c : Color15) : to24 c =
    ((c.extractLsb' 0 5).setWidth 32 <<< 19) ||| ((c.extractLsb' 5 5).setWidth 32 <<< 11) |||
      ((c.extractLsb' 10 5).setWidth 32 <<< 3) := by
  simp only [to24, pack24, widen, red15, green15, blue15, zero_append_eq_setWidth,
    BitVec.setWidth_append_eq_shiftLeft_setWidth_or, BitVec.shiftLeft_or_distrib, ← BitVec.shiftLeft_add,
    BitVec.or_assoc]
  simp

/-- A Color15 result, each channel shifted to its place. -/
theorem to15_eq_shifts (d : Color24) : (to15 d).setWidth 32 =
    (d.extractLsb' 19 5).setWidth 32 ||| ((d.extractLsb' 11 5).setWidth 32 <<< 5) |||
      ((d.extractLsb' 3 5).setWidth 32 <<< 10) := by
  have hr : narrow (red24 d) = d.extractLsb' 19 5 := extract_extract (by decide) d
  have hg : narrow (green24 d) = d.extractLsb' 11 5 := extract_extract (by decide) d
  have hb : narrow (blue24 d) = d.extractLsb' 3 5 := extract_extract (by decide) d
  simp only [to15, hr, hg, hb, pack15, BitVec.setWidth_append_eq_shiftLeft_setWidth_or, BitVec.setWidth_zero,
    BitVec.zero_shiftLeft, BitVec.zero_or]
  ac_rfl

/-- Settles O22. -/
theorem color15ToColor24Result : Obligations.Color15ToColor24Result :=
  ⟨fun w h => decode_eq_some_iff.2 (masked_color15_iff.2 ⟨h, color15Field_eq w⟩),
    fun c s => s.reply_word (to24_eq_shifts c)⟩

/-- Settles O23. -/
theorem color24ToColor15Result : Obligations.Color24ToColor15Result :=
  ⟨fun _ h => decode_eq_some_iff.2 (masked_color24_iff.2 ⟨h, rfl⟩),
    fun d s => s.reply_word (to15_eq_shifts d)⟩

/-- Settles O25: each accessor answers one field as a number. -/
theorem color15AccessorResults : Obligations.Color15AccessorResults :=
  ⟨fun w h => decode_eq_some_iff.2 (masked_color15_iff.2 ⟨h, color15Field_eq w⟩),
    fun w h => decode_eq_some_iff.2 (masked_color15_iff.2 ⟨h, color15Field_eq w⟩),
    fun w h => decode_eq_some_iff.2 (masked_color15_iff.2 ⟨h, color15Field_eq w⟩),
    fun c s => ⟨s.reply_word (setWidth_extract_zero_eq_ofNat c 5 32),
      s.reply_word (setWidth_extract_eq_ofNat c 5 5 32),
      s.reply_word (setWidth_extract_eq_ofNat c 10 5 32)⟩⟩

/-- Settles O26: each accessor answers one byte as a number. -/
theorem color24AccessorResults : Obligations.Color24AccessorResults :=
  ⟨fun _ h => decode_eq_some_iff.2 (masked_color24_iff.2 ⟨h, rfl⟩),
    fun _ h => decode_eq_some_iff.2 (masked_color24_iff.2 ⟨h, rfl⟩),
    fun _ h => decode_eq_some_iff.2 (masked_color24_iff.2 ⟨h, rfl⟩),
    fun d s => ⟨s.reply_word (setWidth_extract_eq_ofNat d 16 8 32),
      s.reply_word (setWidth_extract_eq_ofNat d 8 8 32),
      s.reply_word (setWidth_extract_zero_eq_ofNat d 8 32)⟩⟩

/-- Settles O27: each mutator clears its channel's field and sets the masked operand into it. -/
theorem color15MutatorResults : Obligations.Color15MutatorResults :=
  ⟨fun w h => decode_eq_some_iff.2 (masked_a_color15_iff.2 ⟨h, rfl, color15Field_eq w⟩),
    fun w h => decode_eq_some_iff.2 (masked_a_color15_iff.2 ⟨h, rfl, color15Field_eq w⟩),
    fun w h => decode_eq_some_iff.2 (masked_a_color15_iff.2 ⟨h, rfl, color15Field_eq w⟩),
    fun v c s => ⟨reply15_eq s (clear_or_lowField rfl c (mask5 v)),
      reply15_eq s (clear_or_field (a := 6) (c := 5) rfl c (mask5 v)),
      reply15_eq s (clear_or_field (a := 1) (c := 10) rfl c (mask5 v))⟩⟩

/-- Settles O28: each mutator clears its channel's byte and sets the operand into it. -/
theorem color24MutatorResults : Obligations.Color24MutatorResults :=
  ⟨fun _ h => decode_eq_some_iff.2 (masked_a_color24_iff.2 ⟨h, rfl, rfl⟩),
    fun _ h => decode_eq_some_iff.2 (masked_a_color24_iff.2 ⟨h, rfl, rfl⟩),
    fun _ h => decode_eq_some_iff.2 (masked_a_color24_iff.2 ⟨h, rfl, rfl⟩),
    fun v d s => ⟨reply24_eq s (clear_or_field (a := 8) (c := 16) rfl d v),
      reply24_eq s (clear_or_field (a := 16) (c := 8) rfl d v),
      reply24_eq s (clear_or_lowField rfl d v)⟩⟩

end Sys2Proof.Machine
end

section
/-! PROOFS. The palette family: how PAL.GET and PAL.SET end with an index out of range, with a written entry, and with
one never written (R142, R143). The endings with a written entry stand in the memory family. -/

namespace Sys2Proof.Machine

/-! ### An index out of range -/

/-- The index error in the claims' terms: kind 4, the index and 16 (R241, R242). -/
theorem failure_invalidIndex (i : Byte) :
    Response.failure { kind := .invalidIndex, e0 := i.setWidth 16, e1 := infoField 16 } = err 4 i.toNat 16 := by
  simp only [err, BitVec.ofNat_toNat]
  rfl

/-- With 16 entries an index of 16 or more fails the check, and the command answers so. -/
theorem indexError_of_outOfRange {z : PalSize} {i : Byte} (hz : z = .pal16) (hi : 16 ≤ i.toNat) :
    ∃ e, indexError z i = some e ∧ Response.failure e = err 4 i.toNat 16 := by
  subst hz
  exact ⟨_, if_pos hi, failure_invalidIndex i⟩

theorem execPalGet_of_outOfRange {i : Byte} {s : State} (hz : s.palSize = .pal16) (hi : 16 ≤ i.toNat) :
    execPalGet i s = .next (answered s (err 4 i.toNat 16)) := by
  obtain ⟨e, he, hr⟩ := indexError_of_outOfRange hz hi
  simp only [execPalGet, he, State.raise_eq, hr]

theorem execPalSet_of_outOfRange {i : Byte} {s : State} (hz : s.palSize = .pal16) (hi : 16 ≤ i.toNat) (c : Color15) :
    execPalSet i c s = .next (answered s (err 4 i.toNat 16)) := by
  obtain ⟨e, he, hr⟩ := indexError_of_outOfRange hz hi
  simp only [execPalSet, he, State.raise_eq, hr]

/-! ### An entry never written -/

/-- Reading an entry never written draws one free value. -/
theorem Palette.read_of_unwritten {p : Palette} {i : Nat} (h : p.entry i = none) (n : Nat) :
    p.read n i = (Config.freeColor n, n + 1) := by
  simp [Palette.read, h]

/-- PAL.GET of an entry never written since reset (R34, log entry 3). -/
theorem execPalGet_of_unwritten {i : Byte} {s : State} (hi : i.toNat < s.palSize.cap)
    (h : s.pal.entry i.toNat = none) :
    execPalGet i s = reply15 (s.putDraws (s.draws + 1)) (Config.freeColor s.draws) := by
  simp only [execPalGet, indexError_eq_none.2 hi, Palette.read_of_unwritten h]

/-! ### The obligations -/

/-- Settles O31: PAL.GET ends in one of three ways, by the index and then by the entry. -/
theorem palGetResult : Obligations.PalGetResult := by
  refine ⟨fun w h => decode_eq_some_iff.2 (masked_a_iff.2 ⟨h, rfl⟩),
    fun i s hz hi => execPalGet_of_outOfRange hz hi, fun i s hi => ?_⟩
  have hcap : i.toNat < s.palSize.cap := PalSize.lt_cap_iff.2 hi
  exact ⟨fun c hc => execPalGet_of_entry hcap hc,
    fun hnone => ⟨Config.freeColor s.draws, s.draws + 1, execPalGet_of_unwritten hcap hnone⟩⟩

/-- Settles O32: in range the new palette is the old one with that one entry written. -/
theorem palSetResult : Obligations.PalSetResult := by
  refine ⟨fun w h => decode_eq_some_iff.2 (masked_a_color15_iff.2 ⟨h, rfl, color15Field_eq w⟩),
    fun i c s hz hi => execPalSet_of_outOfRange hz hi c, fun i c s hi => ?_⟩
  exact ⟨s.pal.write i.toNat c, execPalSet_of_lt (PalSize.lt_cap_iff.2 hi) c, Palette.entry_write_same s.pal i.toNat c,
    fun _ hj => Palette.entry_write_other hj s.pal c⟩

end Sys2Proof.Machine
end

section
/-! PROOFS. The tile formats: which plane and row a byte of a tile holds (R161 to R171, R175 (a)); the pixel functions
bit by bit (R172, R173); what follows for pixels set and got and for the sibling layouts (R175 (b) to (e)). -/

namespace Sys2Proof.Machine

/-! ### The plane and the row of a byte -/

/-- The plane that the byte at offset `k` holds: the inverse of `planeAddr` (`planeAddr_planeAt`). -/
def planeAt (l : Layout) (k : Nat) : Nat :=
  match l with
  | .planar => k / 8
  | .intertwined => 2 * (k / 16) + k % 2
  | .mixed => if k < 16 then k % 2 else k / 8

/-- The row that the byte at offset `k` holds: the inverse of `planeAddr` (`planeAddr_planeAt`). -/
def rowAt (l : Layout) (k : Nat) : Nat :=
  match l with
  | .planar => k % 8
  | .intertwined => k % 16 / 2
  | .mixed => if k < 16 then k / 2 else k % 8

theorem rowAt_lt (l : Layout) (k : Nat) : rowAt l k < 8 := by
  cases l <;> simp only [rowAt]
  case planar => omega
  case intertwined => omega
  case mixed => split <;> omega

/-- A byte within the tile holds one of the format's planes. -/
theorem planeAt_lt {f : TileFormat} {l : Layout} (hl : f.layout = some l) {k : Nat} (hk : k < f.bytes) :
    planeAt l k < f.depth := by
  cases f <;> cases hl <;> simp only [TileFormat.bytes] at hk <;> simp only [planeAt, TileFormat.depth]
  case bpp3Inter => split <;> omega
  all_goals omega

theorem planeAddr_planeAt (l : Layout) (k : Nat) : planeAddr l (planeAt l k) (rowAt l k) = k := by
  cases l <;> simp only [planeAddr, planarAddr, intertwinedAddr, planeAt, rowAt]
  case planar => omega
  case intertwined => omega
  case mixed => grind

/-- The byte of a plane and row holds no other plane or row. -/
theorem planeAt_planeAddr (l : Layout) (p : Nat) {y : Nat} (hy : y < 8) :
    planeAt l (planeAddr l p y) = p ∧ rowAt l (planeAddr l p y) = y := by
  cases l <;> simp only [planeAddr, planarAddr, intertwinedAddr, planeAt, rowAt]
  case planar => omega
  case intertwined => omega
  case mixed => grind

/-- Bytes of different rows differ, whatever their planes. -/
theorem row_eq_of_planeAddr_eq {l : Layout} {p q y y' : Nat} (hy : y < 8) (hy' : y' < 8)
    (h : planeAddr l p y = planeAddr l q y') : y = y' := by
  rw [← (planeAt_planeAddr l p hy).2, h, (planeAt_planeAddr l q hy').2]

theorem mode7Addr_injective {x y x' y' : Nat} (hx : x < 8) (hx' : x' < 8) (h : mode7Addr x y = mode7Addr x' y') :
    x = x' ∧ y = y' := by
  unfold mode7Addr at h
  omega

/-! ### The pixel functions, by layout -/

theorem depth_le (f : TileFormat) : f.depth ≤ 8 := by
  cases f <;> decide

@[simp] theorem getPixel_mode7 (m : Memory) (x y : Nat) : getPixel .mode7 m x y = m.read (mode7Addr x y) := rfl

@[simp] theorem setPixel_mode7 (m : Memory) (x y : Nat) (v : Byte) :
    setPixel .mode7 m x y v = m.write (mode7Addr x y) v := rfl

theorem getPixel_of_layout {f : TileFormat} {l : Layout} (hl : f.layout = some l) (m : Memory) (x y : Nat) :
    getPixel f m x y = getPlanes l m x y f.depth := by
  simp only [getPixel, hl]

theorem setPixel_of_layout {f : TileFormat} {l : Layout} (hl : f.layout = some l) (m : Memory) (x y : Nat) (v : Byte) :
    setPixel f m x y v = setPlanes l m x y v f.depth := by
  simp only [setPixel, hl]

/-! ### The pixel functions, bit by bit -/

theorem getLsbD_pixelMask (x j : Nat) : (pixelMask x).getLsbD j = decide (j = 7 - x) := by
  simp only [pixelMask, BitVec.getLsbD_shiftLeft, BitVec.getLsbD_one]
  grind

/-- One step of the decoding loop takes bit `7 - x` of the plane byte to bit `p` (R172). -/
theorem getLsbD_planeBit (b : Byte) (x q : Nat) {p : Nat} (hp : p < 8) :
    (((b &&& pixelMask x) >>> (7 - x)) <<< p).getLsbD q = (decide (q = p) && b.getLsbD (7 - x)) := by
  simp only [BitVec.getLsbD_shiftLeft, BitVec.getLsbD_ushiftRight, BitVec.getLsbD_and, getLsbD_pixelMask]
  grind

/-- One step of the encoding loop takes bit `p` of the value to bit `7 - x` and keeps the other bits (R173). -/
theorem getLsbD_setPlaneBit (b : Byte) (x p : Nat) (v : Byte) (j : Nat) :
    (setPlaneBit b x p v).getLsbD j = if j = 7 - x then v.getLsbD p else b.getLsbD j := by
  simp only [setPlaneBit, BitVec.getLsbD_or, BitVec.getLsbD_and, BitVec.getLsbD_not, getLsbD_pixelMask,
    BitVec.getLsbD_shiftLeft, BitVec.getLsbD_ushiftRight, BitVec.getLsbD_one]
  grind

/-- The decoding loop over `n` planes gives `n` bits, one from each plane byte of the row (R172). -/
theorem getLsbD_getPlanes (l : Layout) (m : Memory) (x y q : Nat) {n : Nat} (hn : n ≤ 8) :
    (getPlanes l m x y n).getLsbD q = (decide (q < n) && (m.read (planeAddr l q y)).getLsbD (7 - x)) := by
  induction n with
  | zero => simp [getPlanes]
  | succ n ih =>
    rw [getPlanes, BitVec.getLsbD_or, ih (by omega), getLsbD_planeBit _ _ _ (by omega)]
    grind

section
variable {f : TileFormat} {l : Layout} (hl : f.layout = some l)
include hl

theorem getLsbD_getPixel (m : Memory) (x y p : Nat) :
    (getPixel f m x y).getLsbD p = (decide (p < f.depth) && (m.read (planeAddr l p y)).getLsbD (7 - x)) := by
  rw [getPixel_of_layout hl, getLsbD_getPlanes l m x y p (depth_le f)]

/-- A plane byte of the pixel's row has the pixel's bit replaced. -/
theorem setPixel_read_plane {y p : Nat} (hy : y < 8) (hp : p < f.depth) (m : Memory) (x : Nat) (v : Byte) :
    (setPixel f m x y v).read (planeAddr l p y) = setPlaneBit (m.read (planeAddr l p y)) x p v := by
  rw [setPixel_of_layout hl, setPlanes_read_plane hy hp]

/-- A bit that is not the pixel's in any plane byte of its row keeps its value. -/
theorem setPixel_bit_other {x y k j : Nat} (hy : y < 8)
    (h : ∀ p, p < f.depth → k = planeAddr l p y → j ≠ 7 - x) (m : Memory) (v : Byte) :
    ((setPixel f m x y v).read k).getLsbD j = (m.read k).getLsbD j := by
  by_cases hk : ∃ p < f.depth, k = planeAddr l p y
  · obtain ⟨p, hp, rfl⟩ := hk
    rw [setPixel_read_plane hl hy hp, getLsbD_setPlaneBit, if_neg (h p hp rfl)]
  · rw [setPixel_of_layout hl, setPlanes_read_other fun p hp hkp => hk ⟨p, hp, hkp⟩]

end

/-! ### The bits of the value that count -/

/-- A number below `2 ^ n` has no bit at `n` or above. -/
theorem getLsbD_of_lt {v : Byte} {n p : Nat} (hv : v.toNat < 2 ^ n) (hp : n ≤ p) : v.getLsbD p = false :=
  Nat.testBit_lt_two_pow (hv.trans_le (Nat.pow_le_pow_right (by decide) hp))

/-- Values that agree modulo `2 ^ n` agree in the bits below `n`. -/
theorem getLsbD_eq_of_mod_eq {v v' : Byte} {n p : Nat} (h : v.toNat % 2 ^ n = v'.toNat % 2 ^ n) (hp : p < n) :
    v.getLsbD p = v'.getLsbD p := by
  have hbit := congrArg (Nat.testBit · p) h
  simpa only [Nat.testBit_mod_two_pow, hp, decide_true, Bool.true_and, BitVec.testBit_toNat] using hbit

theorem setPlaneBit_congr {v v' : Byte} {p : Nat} (h : v.getLsbD p = v'.getLsbD p) (b : Byte) (x : Nat) :
    setPlaneBit b x p v = setPlaneBit b x p v' := by
  refine BitVec.eq_of_getLsbD_eq fun j _ => ?_
  rw [getLsbD_setPlaneBit, getLsbD_setPlaneBit, h]

/-- The encoding loop over `n` planes reads the low `n` bits of the value only. -/
theorem setPlanes_congr {v v' : Byte} {n : Nat} (h : ∀ p < n, v.getLsbD p = v'.getLsbD p) (l : Layout) (m : Memory)
    (x y : Nat) : setPlanes l m x y v n = setPlanes l m x y v' n := by
  induction n with
  | zero => rfl
  | succ n ih =>
    rw [setPlanes, setPlanes, ih fun p hp => h p (Nat.lt_succ_of_lt hp), setPlaneBit_congr (h n (Nat.lt_succ_self n))]

/-! ### The obligations -/

/-- Settles O38: `planeAt` and `rowAt` are the two-sided inverse of `planeAddr`. -/
theorem planeAddressBijection : Obligations.PlaneAddressBijection := by
  refine fun f l hl => ⟨fun p y hp hy => planeAddr_lt hl hp hy, fun k hk =>
    ⟨planeAt l k, rowAt l k, planeAt_lt hl hk, rowAt_lt l k, planeAddr_planeAt l k, fun p y _ hy hkp => ?_⟩⟩
  obtain ⟨hplane, hrow⟩ := planeAt_planeAddr l p hy
  rw [hkp] at hplane hrow
  exact ⟨hplane.symm, hrow.symm⟩

/-- Settles O39. -/
theorem getPixelBits : Obligations.GetPixelBits :=
  ⟨fun _ _ m x y p hl _ _ => getLsbD_getPixel hl m x y p, fun m x y _ _ => getPixel_mode7 m x y⟩

/-- Settles O40: a plane byte of the row has one bit replaced, every other byte is unchanged. -/
theorem setPixelBits : Obligations.SetPixelBits := by
  refine ⟨fun f l m x y v hl _ hy => ⟨fun p hp => ?_, fun k j h => setPixel_bit_other hl hy h m v⟩,
    fun m x y v _ _ => ⟨Memory.read_write_same m _ v, fun k hk => Memory.read_write_other hk m v⟩⟩
  rw [setPixel_read_plane hl hy hp, getLsbD_setPlaneBit, if_pos rfl]

/-- Settles O41: in a bit-plane format bit by bit, since no two pixels share a bit of a plane byte. -/
theorem getPixelAfterSetPixel : Obligations.GetPixelAfterSetPixel := by
  intro f m x y v hx hy
  cases hl : f.layout with
  | none =>
    obtain rfl := layout_none hl
    refine ⟨fun _ => Memory.read_write_same m _ v, fun x' y' hx' _ hne => Memory.read_write_other (fun h => ?_) m v⟩
    obtain ⟨rfl, rfl⟩ := mode7Addr_injective hx' hx h
    exact hne.elim (· rfl) (· rfl)
  | some l =>
    refine ⟨fun hv => BitVec.eq_of_getLsbD_eq fun p _ => ?_, fun x' y' hx' hy' hne =>
      BitVec.eq_of_getLsbD_eq fun p _ => ?_⟩
    · rw [getLsbD_getPixel hl]
      by_cases hp : p < f.depth
      · rw [setPixel_read_plane hl hy hp, getLsbD_setPlaneBit, if_pos rfl, decide_eq_true hp, Bool.true_and]
      · rw [decide_eq_false hp, Bool.false_and, getLsbD_of_lt hv (Nat.le_of_not_lt hp)]
    · have hother : ∀ q, q < f.depth → planeAddr l p y' = planeAddr l q y → 7 - x' ≠ 7 - x := fun q _ h => by
        have hrow := row_eq_of_planeAddr_eq hy' hy h
        omega
      rw [getLsbD_getPixel hl, getLsbD_getPixel hl, setPixel_bit_other hl hy hother]

/-- Settles O42: each plane takes one bit of the value below DEPTH, and Mode7 all eight. -/
theorem setPixelKeepsLowBitsOnly : Obligations.SetPixelKeepsLowBitsOnly := by
  intro f m x y v v' h
  have hbits : ∀ p < f.depth, v.getLsbD p = v'.getLsbD p := fun p hp => getLsbD_eq_of_mod_eq h hp
  cases hl : f.layout with
  | none =>
    obtain rfl := layout_none hl
    rw [BitVec.eq_of_getLsbD_eq hbits]
  | some l => rw [setPixel_of_layout hl, setPixel_of_layout hl, setPlanes_congr hbits]

/-- Settles O43: a pixel is a function of the plane bytes of its row. -/
theorem siblingLayoutsSameColormap : Obligations.SiblingLayoutsSameColormap := by
  intro f f' l l' m m' hl hl' hdepth hbytes
  refine List.map_congr_left fun i hi => BitVec.eq_of_getLsbD_eq fun p _ => ?_
  have hy : i / 8 < 8 := by
    have := List.mem_range.1 hi
    omega
  rw [getLsbD_getPixel hl', getLsbD_getPixel hl, hdepth]
  by_cases hp : p < f.depth
  · rw [hbytes p (i / 8) hp hy]
  · rw [decide_eq_false hp, Bool.false_and, Bool.false_and]

/-- Settles O37: the formats of one layout share its address function. -/
theorem planeBytesOfEveryFormat : Obligations.PlaneBytesOfEveryFormat := by
  have hintertwined : ∀ p y, planeAddr .intertwined p y = 16 * (p >>> 1) + 2 * y + (p &&& 1) := fun p y => by
    rw [Nat.shiftRight_one, Nat.and_one_is_mod, planeAddr, intertwinedAddr]
  refine ⟨fun f hf => ⟨.planar, ?_, fun _ _ _ _ => rfl⟩,
    fun f hf => ⟨.intertwined, ?_, fun p y _ _ => hintertwined p y⟩,
    ⟨.mixed, rfl, fun y _ => ?_⟩, rfl, getPixel_mode7⟩
  · fin_cases hf <;> rfl
  · fin_cases hf <;> rfl
  · simp [planeAddr, intertwinedAddr, planarAddr]

end Sys2Proof.Machine
end

section
/-! PROOFS. The tile family: TILE.READ and TILE.DECODE (R193, R196), and three round trips of R198, (a), (b) and
(d). An encoded colormap is the colormap of the tile it gives, and a colormap fixes every byte of its tile; the one
obstacle is 8bpp planar, whose limit of 16 refuses what planes 4 to 7 hold. -/

namespace Sys2Proof.Machine

/-! ### The endings of TILE.LOAD, TILE.READ, TILE.DECODE and TILE.ENCODE -/

section
variable {f : Byte} {fmt : TileFormat} {s : State} (hf : TileFormat.ofCode f = some fmt)
include hf

/-- TILE.LOAD with a legal code and the exact length. -/
theorem execTileLoad_of_length (hl : s.din.length = fmt.bytes) :
    execTileLoad f s = (s.putTile fmt (Memory.ofBytes s.din)).reply 0 .empty := by
  simp [execTileLoad, hf, lengthError_eq_none.2 hl]

/-- TILE.ENCODE with a legal code and a scan that accepts every element. -/
theorem execTileEncode_of_ok {m : Memory} (he : encodeFrom config fmt 0 Memory.zero s.din = .ok m) :
    execTileEncode f s = (s.putTile fmt m).reply 0 .empty := by
  simp [execTileEncode, hf, he]

/-- TILE.ENCODE with a legal code and a scan that fails. -/
theorem execTileEncode_of_error {e : CmdError} (he : encodeFrom config fmt 0 Memory.zero s.din = .error e) :
    execTileEncode f s = s.raise e := by
  simp [execTileEncode, hf, he]

end

section
variable {s : State} {es : List Byte}

/-- TILE.READ has one ending: it answers the bytes of the tile (R193). -/
theorem execTileRead_iff :
    execTileRead s = .next (answered s (okOut (.bytes es))) ↔ s.tile.toBytes s.tileFmt.bytes = es := by
  rw [execTileRead, State.reply_eq, Response.success_zero]
  simp [answered, okOut]

/-- TILE.DECODE has one ending: it answers the colormap of the tile (R196). -/
theorem execTileDecode_iff :
    execTileDecode s = .next (answered s (okOut (.bytes es))) ↔ colormap s.tileFmt s.tile = es := by
  rw [execTileDecode, State.reply_eq, Response.success_zero]
  simp [answered, okOut]

end

/-- The value error in the claims' terms: kind 3, the value and the limit (R241, R242). -/
theorem failure_invalidValue (v : Byte) (n : Nat) :
    Response.failure { kind := .invalidValue, e0 := v.setWidth 16, e1 := infoField n } = err 3 v.toNat n := by
  simp only [err, BitVec.ofNat_toNat]
  rfl

/-! ### Bytes in, bytes out -/

/-- The bytes of a payload, read out again, are the payload (R51). -/
theorem Memory.toBytes_ofBytes (bs : List Byte) : (Memory.ofBytes bs).toBytes bs.length = bs := by
  refine List.ext_getElem (Memory.toBytes_length _ _) fun k _ hk => ?_
  simp [Memory.toBytes, Memory.ofBytes_read, hk]

/-- Tiles that read the same below `n` have the same first `n` bytes. -/
theorem Memory.toBytes_congr {m m' : Memory} {n : Nat} (h : ∀ k < n, m'.read k = m.read k) :
    m'.toBytes n = m.toBytes n :=
  List.map_congr_left fun k hk => h k (List.mem_range.1 hk)

/-- Byte `k` of a payload is 0 exactly when the tile it gives reads 0 there. -/
theorem Memory.ofBytes_read_eq_zero_iff {bs : List Byte} {k : Nat} (hk : k < bs.length) :
    (Memory.ofBytes bs).read k = 0x00#8 ↔ bs[k]? = some 0x00#8 := by
  simp [Memory.ofBytes_read, hk]

/-! ### The values a format holds and the values it accepts -/

/-- A byte is below `2 ^ n` exactly when it has no bit at `n` or above. -/
theorem lt_two_pow_iff_getLsbD {v : Byte} {n : Nat} : v.toNat < 2 ^ n ↔ ∀ p, n ≤ p → v.getLsbD p = false :=
  ⟨fun hv _ hp => getLsbD_of_lt hv hp, fun h => Nat.lt_pow_two_of_testBit v.toNat h⟩

/-- A pixel has at most DEPTH bits. -/
theorem getPixel_lt (f : TileFormat) (m : Memory) (x y : Nat) : (getPixel f m x y).toNat < 2 ^ f.depth := by
  cases hl : f.layout with
  | none =>
    obtain rfl := layout_none hl
    exact BitVec.isLt _
  | some l =>
    refine lt_two_pow_iff_getLsbD.2 fun p hp => ?_
    rw [getLsbD_getPixel hl, decide_eq_false (Nat.not_lt.2 hp), Bool.false_and]

/-- An accepted value fits in DEPTH bits: no format's limit is above `2 ^ DEPTH`. -/
theorem acceptedValue.lt {f : TileFormat} {v : Byte} (h : acceptedValue f v) : v.toNat < 2 ^ f.depth := by
  cases f with
  | bpp8Planar => exact v.isLt
  | bpp8Inter => exact v.isLt
  | mode7 => exact v.isLt
  | _ => exact h _ rfl

/-- Outside 8bpp planar no limit is below `2 ^ DEPTH`, so what fits is accepted. -/
theorem acceptedValue_of_lt {f : TileFormat} (hf : f ≠ .bpp8Planar) {v : Byte} (h : v.toNat < 2 ^ f.depth) :
    acceptedValue f v := by
  intro n hn
  cases f <;> cases hn
  case bpp8Planar => exact absurd rfl hf
  all_goals exact h

/-- The limit of 8bpp planar on this hardware (R9, R174). -/
theorem acceptedValue_bpp8Planar {v : Byte} : acceptedValue .bpp8Planar v ↔ v.toNat < 16 :=
  ⟨fun h => h 16 rfl, fun h n hn => by cases hn; exact h⟩

/-! ### A colormap and its pixels -/

/-- Pixel `(x, y)` is element `8y + x` of the colormap (R54). -/
theorem colormap_getElem?_pixel (f : TileFormat) (m : Memory) {x y : Nat} (hx : x < 8) (hy : y < 8) :
    (colormap f m)[8 * y + x]? = some (getPixel f m x y) := by
  rw [colormap_getElem? f m (by omega), show (8 * y + x) % 8 = x by omega, show (8 * y + x) / 8 = y by omega]

/-- The elements of a colormap are the pixels. -/
theorem forall_mem_colormap {f : TileFormat} {m : Memory} {P : Byte → Prop} :
    (∀ u ∈ colormap f m, P u) ↔ ∀ x y, x < 8 → y < 8 → P (getPixel f m x y) := by
  constructor
  · exact fun h x y hx hy => h _ (List.mem_of_getElem? (colormap_getElem?_pixel f m hx hy))
  · intro h u hu
    obtain ⟨i, hi, rfl⟩ := List.mem_map.1 hu
    have hi := List.mem_range.1 hi
    exact h _ _ (by omega) (by omega)

/-- Tiles with the same colormap have the same pixels. -/
theorem getPixel_eq_of_colormap_eq {f : TileFormat} {m m' : Memory} (h : colormap f m' = colormap f m) {x y : Nat}
    (hx : x < 8) (hy : y < 8) : getPixel f m' x y = getPixel f m x y := by
  have hpixel := congrArg (·[8 * y + x]?) h
  simpa only [colormap_getElem?_pixel f _ hx hy, Option.some.injEq] using hpixel

/-- The colormap fixes the tile: bit `j` of the byte of plane `p` and row `y` is bit `p` of pixel `(7 - j, y)`. -/
theorem read_eq_of_colormap_eq {f : TileFormat} {m m' : Memory} (h : colormap f m' = colormap f m) :
    ∀ k < f.bytes, m'.read k = m.read k := by
  intro k hk
  cases hl : f.layout with
  | none =>
    obtain rfl := layout_none hl
    have haddr : mode7Addr (k % 8) (k / 8) = k := by unfold mode7Addr; omega
    have hrow : k / 8 < 8 := Nat.div_lt_of_lt_mul hk
    simpa only [getPixel_mode7, haddr] using getPixel_eq_of_colormap_eq h (Nat.mod_lt k (by decide)) hrow
  | some l =>
    refine BitVec.eq_of_getLsbD_eq fun j hj => ?_
    have hpixel := getPixel_eq_of_colormap_eq h (x := 7 - j) (by omega) (rowAt_lt l k)
    have hbit := congrArg (·.getLsbD (planeAt l k)) hpixel
    simpa only [getLsbD_getPixel hl, planeAt_lt hl hk, decide_true, Bool.true_and, planeAddr_planeAt,
      show 7 - (7 - j) = j by omega] using hbit

/-- Setting a pixel to an accepted value replaces its element of the colormap and no other. -/
theorem colormap_setPixel {f : TileFormat} {i : Nat} (hi : i < 64) {v : Byte} (hv : acceptedValue f v) (m : Memory) :
    colormap f (setPixel f m (i % 8) (i / 8) v) = (colormap f m).set i v := by
  refine List.ext_getElem (by simp) fun j hj _ => ?_
  obtain ⟨hsame, hother⟩ := getPixelAfterSetPixel f m (i % 8) (i / 8) v (by omega) (by omega)
  have hj : j < 64 := by simpa using hj
  simp only [colormap, List.getElem_set, List.getElem_map, List.getElem_range]
  split
  case isTrue h => rw [← h, hsame hv.lt]
  case isFalse h => exact hother _ _ (by omega) (by omega) (by omega)

/-! ### The scan of TILE.ENCODE -/

/-- Within the 64 pixels the bounds check passes, and the value check is what remains. -/
theorem pixelError_of_lt (cfg : Config) (f : TileFormat) {i : Nat} (hi : i < 64) (v : Byte) :
    pixelError cfg f (i % 8) (i / 8) v = valueError (f.limit cfg) v := by
  have hcoord : coordError (i % 8) (i / 8) = none := coordError_eq_none.2 (by omega)
  rw [pixelError, hcoord, Option.none_or]

theorem encodeFrom_cons_of_error {cfg : Config} {f : TileFormat} {i : Nat} {v : Byte} {e : CmdError}
    (h : pixelError cfg f (i % 8) (i / 8) v = some e) (m : Memory) (vs : List Byte) :
    encodeFrom cfg f i m (v :: vs) = .error e := by
  simp only [encodeFrom, h]

theorem encodeFrom_cons_of_none {cfg : Config} {f : TileFormat} {i : Nat} {v : Byte}
    (h : pixelError cfg f (i % 8) (i / 8) v = none) (m : Memory) (vs : List Byte) :
    encodeFrom cfg f i m (v :: vs) = encodeFrom cfg f (i + 1) (setPixel f m (i % 8) (i / 8) v) vs := by
  simp only [encodeFrom, h]

/-- A scan of accepted elements from pixel `i` on succeeds, and the elements replace the pixels from `i` on. -/
theorem encodeFrom_of_accepted {f : TileFormat} {vs : List Byte} {i : Nat} (hlen : i + vs.length ≤ 64)
    (hacc : ∀ u ∈ vs, acceptedValue f u) (m : Memory) : ∃ m', encodeFrom config f i m vs = .ok m' ∧
      colormap f m' = (colormap f m).take i ++ (vs ++ (colormap f m).drop (i + vs.length)) := by
  induction vs generalizing i m with
  | nil => exact ⟨m, rfl, by simp⟩
  | cons v vs ih =>
    obtain ⟨hv, hvs⟩ := List.forall_mem_cons.1 hacc
    rw [List.length_cons] at hlen
    have hi : i < 64 := by omega
    have hpass : pixelError config f (i % 8) (i / 8) v = none :=
      (pixelError_of_lt config f hi v).trans (valueError_eq_none.2 hv)
    obtain ⟨m', hm', hcm⟩ := ih (i := i + 1) (by omega) hvs (setPixel f m (i % 8) (i / 8) v)
    refine ⟨m', (encodeFrom_cons_of_none hpass m vs).trans hm', ?_⟩
    have htake : ((colormap f m).set i v).take (i + 1) = (colormap f m).take i ++ [v] := by
      simp [List.take_add_one, List.take_set_of_le, hi]
    rw [hcm, colormap_setPixel hi hv, htake, List.drop_set_of_lt (by omega), List.append_assoc, List.length_cons,
      Nat.add_right_comm]
    rfl

/-- A full colormap of accepted elements is encoded into a tile that has this colormap (R198 (a)). -/
theorem encodeFrom_colormap {f : TileFormat} {vs : List Byte} (hlen : vs.length = 64)
    (hacc : ∀ u ∈ vs, acceptedValue f u) (m : Memory) :
    ∃ m', encodeFrom config f 0 m vs = .ok m' ∧ colormap f m' = vs := by
  obtain ⟨m', hm', hcm⟩ := encodeFrom_of_accepted (i := 0) (by omega) hacc m
  have hdrop : (colormap f m).drop (0 + vs.length) = [] := List.drop_of_length_le (by simp [hlen])
  exact ⟨m', hm', by rw [hcm, hdrop, List.take_zero, List.nil_append, List.append_nil]⟩

/-- A scan with an element at or above the limit fails, and reports such an element. -/
theorem encodeFrom_of_refused {f : TileFormat} {n : Nat} (hlim : f.limit config = some n) {vs : List Byte} {i : Nat}
    (hlen : i + vs.length ≤ 64) (h : ¬ ∀ u ∈ vs, u.toNat < n) (m : Memory) : ∃ v ∈ vs, n ≤ v.toNat ∧
      encodeFrom config f i m vs = .error { kind := .invalidValue, e0 := v.setWidth 16, e1 := infoField n } := by
  induction vs generalizing i m with
  | nil => exact absurd (List.forall_mem_nil _) h
  | cons v vs ih =>
    rw [List.length_cons] at hlen
    have hcheck := pixelError_of_lt config f (i := i) (by omega) v
    rw [hlim] at hcheck
    by_cases hv : n ≤ v.toNat
    · exact ⟨v, List.mem_cons_self, hv, encodeFrom_cons_of_error (hcheck.trans (if_pos hv)) m vs⟩
    · have hrest : ¬ ∀ u ∈ vs, u.toNat < n := fun hall =>
        h (List.forall_mem_cons.2 ⟨Nat.lt_of_not_le hv, hall⟩)
      obtain ⟨u, hu, hn, he⟩ := ih (i := i + 1) (by omega) hrest (setPixel f m (i % 8) (i / 8) v)
      exact ⟨u, List.mem_cons_of_mem v hu, hn, (encodeFrom_cons_of_none (hcheck.trans (if_neg hv)) m vs).trans he⟩

/-! ### Which tiles can be encoded again -/

/-- In 8bpp planar every pixel is below 16 exactly when planes 4 to 7, bytes 32 to 63, are zero. -/
theorem colormap_bpp8Planar_lt_iff {m : Memory} :
    (∀ u ∈ colormap .bpp8Planar m, u.toNat < 16) ↔ ∀ k, 32 ≤ k → k < 64 → m.read k = 0x00#8 := by
  have hbit : ∀ x y p, p < 8 → (getPixel .bpp8Planar m x y).getLsbD p = (m.read (8 * p + y)).getLsbD (7 - x) :=
    fun x y p hp => by
      rw [getLsbD_getPixel (l := .planar) rfl, TileFormat.depth, decide_eq_true hp, Bool.true_and, planeAddr,
        planarAddr]
  rw [forall_mem_colormap]
  constructor
  · intro h k hlo hhi
    refine BitVec.eq_of_getLsbD_eq fun j hj => ?_
    have hpixel := getLsbD_of_lt (n := 4) (h (7 - j) (k % 8) (by omega) (by omega)) (p := k / 8) (by omega)
    rw [hbit _ _ _ (by omega), show 8 * (k / 8) + k % 8 = k by omega, show 7 - (7 - j) = j by omega] at hpixel
    rw [hpixel, BitVec.getLsbD_zero]
  · intro h x y _ hy
    refine lt_two_pow_iff_getLsbD (n := 4).2 fun p hp => ?_
    by_cases hp8 : p < 8
    · rw [hbit x y p hp8, h _ (by omega) (by omega), BitVec.getLsbD_zero]
    · exact BitVec.getLsbD_of_ge _ p (Nat.le_of_not_lt hp8)

/-- Every tile's colormap is accepted in its own format, in 8bpp planar where planes 4 to 7 are zero. -/
theorem colormap_accepted {f : TileFormat} {m : Memory}
    (h : f = .bpp8Planar → ∀ k, 32 ≤ k → k < 64 → m.read k = 0x00#8) :
    ∀ u ∈ colormap f m, acceptedValue f u := by
  by_cases hf : f = .bpp8Planar
  · subst hf
    exact fun u hu => acceptedValue_bpp8Planar.2 (colormap_bpp8Planar_lt_iff.2 (h rfl) u hu)
  · exact forall_mem_colormap.2 fun x y _ _ => acceptedValue_of_lt hf (getPixel_lt f m x y)

/-! ### The obligations -/

/-- Settles O46. -/
theorem tileReadResult : Obligations.TileReadResult :=
  ⟨fun _ h => decode_eq_some_iff.2 (masked_none_iff.2 h),
    fun s => ⟨_, execTileRead_iff.2 rfl, Memory.toBytes_length .., fun _ hk => Memory.toBytes_getElem? s.tile hk⟩⟩

/-- Settles O49. -/
theorem tileDecodeResult : Obligations.TileDecodeResult :=
  ⟨fun _ h => decode_eq_some_iff.2 (masked_none_iff.2 h),
    fun s => ⟨_, execTileDecode_iff.2 rfl, colormap_length .., fun _ hi => colormap_getElem? s.tileFmt s.tile hi⟩⟩

/-- Settles O51: the encoded tile has the payload as its colormap. -/
theorem encodeThenDecode : Obligations.EncodeThenDecode := by
  intro f fmt s hf hlen hacc
  obtain ⟨m, hm, hcm⟩ := encodeFrom_colormap hlen hacc Memory.zero
  exact ⟨_, execTileEncode_of_ok hf hm, rfl, execTileDecode_iff.2 hcm⟩

/-- Settles O53, by `Memory.toBytes_ofBytes`. -/
theorem loadThenRead : Obligations.LoadThenRead := by
  intro f fmt s hf hlen
  have hbytes : (Memory.ofBytes s.din).toBytes fmt.bytes = s.din := by rw [← hlen, Memory.toBytes_ofBytes]
  exact ⟨_, execTileLoad_of_length hf hlen, execTileRead_iff.2 hbytes⟩

/-- Settles O52: a colormap that is accepted gives a tile with the same colormap, and so the same bytes; in 8bpp planar
it is accepted exactly when bytes 32 to 63 are zero. -/
theorem loadDecodeEncodeRead : Obligations.LoadDecodeEncodeRead := by
  intro f fmt s t s' cm hf hlen hload hdecode hdin
  rw [show exec (.tileLoad f) s = _ from execTileLoad_of_length hf hlen] at hload
  cases hload
  obtain rfl : colormap fmt (Memory.ofBytes s.din) = cm := execTileDecode_iff.1 hdecode
  have hzero : ∀ k < fmt.bytes, (Memory.ofBytes s.din).read k = 0x00#8 ↔ s.din[k]? = some 0x00#8 :=
    fun k hk => Memory.ofBytes_read_eq_zero_iff (hlen ▸ hk)
  constructor
  · intro hplanes
    have hacc := colormap_accepted (f := fmt) (m := Memory.ofBytes s.din) fun h k hlo hhi =>
      (hzero k (by rw [h]; exact hhi)).2 (hplanes h k hlo hhi)
    obtain ⟨m', hm', hcm⟩ := encodeFrom_colormap (colormap_length ..) hacc Memory.zero
    have hbytes : m'.toBytes fmt.bytes = s.din := by
      rw [Memory.toBytes_congr (read_eq_of_colormap_eq hcm), ← hlen, Memory.toBytes_ofBytes]
    rw [← hdin] at hm'
    exact ⟨_, execTileEncode_of_ok hf hm', execTileRead_iff.2 hbytes⟩
  · rintro ⟨rfl, k, hlo, hhi, hk⟩
    have hrefused : ¬ ∀ u ∈ colormap .bpp8Planar (Memory.ofBytes s.din), u.toNat < 16 := fun h =>
      hk ((hzero k hhi).1 (colormap_bpp8Planar_lt_iff.1 h k hlo hhi))
    have hlim : TileFormat.bpp8Planar.limit config = some 16 := rfl
    obtain ⟨v, -, hv, he⟩ := encodeFrom_of_refused hlim (i := 0) (by simp) hrefused Memory.zero
    rw [← hdin] at he
    refine ⟨v, hv, (execTileEncode_of_error hf he).trans ?_⟩
    rw [State.raise_eq, failure_invalidValue]

end Sys2Proof.Machine
end

section
/-! PROOFS. The pipeline family: PIPE.NATIVE and PIPE.DISPLAY make the same checks and the same palette reads, so one
ending of the scan and one of the reads serve both (R221, R222); PIPE.DIRECT packs three channels, each the pixel's
bits above one bit of the argument (R224). -/

namespace Sys2Proof.Machine

/-! ### The scan of the pixels -/

/-- The scan reports the first element that fails, with the error of that element (R221). -/
theorem firstIndexError_of_first {z : PalSize} {vs : List Byte} {k : Nat} {v : Byte} {e : CmdError}
    (hk : vs[k]? = some v) (hbefore : ∀ (j : Nat) (u : Byte), j < k → vs[j]? = some u → u.toNat < z.cap)
    (he : indexError z v = some e) : firstIndexError z vs = some e := by
  induction vs generalizing k with
  | nil => simp at hk
  | cons w vs ih =>
    cases k with
    | zero =>
      obtain rfl : w = v := by simpa using hk
      simp [firstIndexError, he]
    | succ k =>
      have hw : indexError z w = none := indexError_eq_none.2 (hbefore 0 w k.succ_pos rfl)
      have hrest := ih (k := k) hk fun j u hj hu => hbefore (j + 1) u (Nat.succ_lt_succ hj) hu
      simp [firstIndexError, hw, hrest]

/-- The scan passes with 256 entries, and where every element is below 16. -/
theorem firstIndexError_of_inRange {z : PalSize} {vs : List Byte} (h : z = .pal256 ∨ ∀ u ∈ vs, u.toNat < 16) :
    firstIndexError z vs = none :=
  firstIndexError_eq_none.2 fun u hu => PalSize.lt_cap_iff.2 (h.imp_right fun hall => hall u hu)

/-! ### The palette reads -/

/-- Where a written entry is read, the reads give it, whatever was drawn before. -/
theorem Palette.readAll_getElem?_of_entry {p : Palette} {is : List Byte} {k : Nat} {u : Byte} {c : Color15}
    (hk : is[k]? = some u) (hc : p.entry u.toNat = some c) (n : Nat) : (p.readAll n is).1[k]? = some c := by
  induction is generalizing k n with
  | nil => simp at hk
  | cons i is ih =>
    cases k with
    | zero =>
      obtain rfl : i = u := by simpa using hk
      simp [Palette.readAll, Palette.read_of_entry hc]
    | succ k => exact ih (k := k) hk _

/-- The colours that PIPE.NATIVE and PIPE.DISPLAY read for the pixels of the tile, and the count of free values after
them. -/
def State.pixelReads (s : State) : List Color15 × Nat :=
  s.pal.readAll s.draws (colormap s.tileFmt s.tile)

theorem State.pixelReads_length (s : State) : s.pixelReads.1.length = 64 :=
  readAll_colormap_length ..

theorem State.pixelReads_getElem?_of_entry {s : State} {k : Nat} {u : Byte} {c : Color15}
    (hk : (colormap s.tileFmt s.tile)[k]? = some u) (hc : s.pal.entry u.toNat = some c) :
    s.pixelReads.1[k]? = some c :=
  Palette.readAll_getElem?_of_entry hk hc s.draws

/-! ### The endings of PIPE.NATIVE and PIPE.DISPLAY -/

section
variable {s : State}

theorem execPipeNative_of_error {e : CmdError} (h : firstIndexError s.palSize (colormap s.tileFmt s.tile) = some e) :
    execPipeNative s = .next (answered s (Response.failure e)) := by
  simp only [execPipeNative, h, State.raise_eq]

theorem execPipeDisplay_of_error {e : CmdError}
    (h : firstIndexError s.palSize (colormap s.tileFmt s.tile) = some e) :
    execPipeDisplay s = .next (answered s (Response.failure e)) := by
  simp only [execPipeDisplay, h, State.raise_eq]

theorem execPipeNative_of_inRange (h : firstIndexError s.palSize (colormap s.tileFmt s.tile) = none) :
    execPipeNative s = .next (answered (s.putDraws s.pixelReads.2) (okOut (.color15s s.pixelReads.1))) := by
  simp only [execPipeNative, h, State.reply_eq, Response.success_zero, State.pixelReads]

theorem execPipeDisplay_of_inRange (h : firstIndexError s.palSize (colormap s.tileFmt s.tile) = none) :
    execPipeDisplay s =
      .next (answered (s.putDraws s.pixelReads.2) (okOut (.color24s (s.pixelReads.1.map to24)))) := by
  simp only [execPipeDisplay, h, State.reply_eq, Response.success_zero, State.pixelReads]

end

/-! ### The channels of a direct colour -/

/-- A mask of one field keeps that field in its place and clears the rest. -/
theorem and_fieldMask {n : Nat} (x : BitVec n) (lo len : Nat) :
    x &&& (BitVec.allOnes len).setWidth n <<< lo = (x.extractLsb' lo len).setWidth n <<< lo := by
  ext k hk
  by_cases hlo : k < lo
  · simp [hlo]
  · have hk' : lo + (k - lo) = k := by omega
    simp [hlo, hk', BitVec.getLsbD_eq_getElem hk, Bool.and_comm]

/-- A masked field as a number. -/
theorem toNat_and_fieldMask {n lo len : Nat} (hlen : lo + len ≤ n) {mask : BitVec n}
    (hmask : mask = (BitVec.allOnes len).setWidth n <<< lo) (x : BitVec n) :
    (x &&& mask).toNat = x.toNat / 2 ^ lo % 2 ^ len * 2 ^ lo := by
  have hfit : x.toNat / 2 ^ lo % 2 ^ len * 2 ^ lo < 2 ^ n :=
    calc x.toNat / 2 ^ lo % 2 ^ len * 2 ^ lo
        < 2 ^ len * 2 ^ lo := Nat.mul_lt_mul_of_pos_right (Nat.mod_lt _ (Nat.two_pow_pos len)) (Nat.two_pow_pos lo)
      _ = 2 ^ (lo + len) := by rw [← Nat.pow_add, Nat.add_comm]
      _ ≤ 2 ^ n := Nat.pow_le_pow_right Nat.two_pos hlen
  have hfield : x.toNat / 2 ^ lo % 2 ^ len < 2 ^ n :=
    (Nat.le_mul_of_pos_right _ (Nat.two_pow_pos lo)).trans_lt hfit
  rw [hmask, and_fieldMask, BitVec.toNat_shiftLeft, BitVec.toNat_setWidth, toNat_extract, Nat.mod_eq_of_lt hfield,
    Nat.shiftLeft_eq, Nat.mod_eq_of_lt hfit]

/-- Data bits above bit 0 and a fixed bit in bit 0 do not overlap, so setting both adds them (R224). -/
theorem toNat_directChannel {data fixed : Byte} {d : Nat} (hd : data.toNat = 2 * d) (hlt : d < 16)
    (hfixed : fixed.toNat < 2) : (directChannel data fixed).toNat = 2 * d + fixed.toNat := by
  have hor : data.toNat ||| fixed.toNat = 2 * d + fixed.toNat := by
    rw [hd]
    exact (Nat.two_pow_add_eq_or_of_lt (i := 1) hfixed d).symm
  rw [directChannel, toNat_extract, BitVec.toNat_or, hor]
  omega

/-- One bit of the argument, as a number. -/
theorem toNat_paletteArg_bit (pa : BitVec 3) (k : Nat) :
    ((pa.setWidth 8 >>> k) &&& 1#8).toNat = pa.toNat / 2 ^ k % 2 := by
  have hwide : pa.toNat % 2 ^ 8 = pa.toNat := Nat.mod_eq_of_lt (pa.isLt.trans (by decide))
  simp only [BitVec.toNat_and, BitVec.toNat_ushiftRight, BitVec.toNat_setWidth, hwide, Nat.shiftRight_eq_div_pow]
  exact Nat.and_one_is_mod _

section
variable (c : Byte) (pa : BitVec 3)

theorem toNat_directRed :
    (directChannel ((c &&& 0x07#8) <<< 1) (pa.setWidth 8 &&& 1#8)).toNat = 2 * (c.toNat % 8) + pa.toNat % 2 := by
  have hbit : (pa.setWidth 8 &&& 1#8).toNat = pa.toNat % 2 := by
    simpa only [BitVec.ushiftRight_zero, pow_zero, Nat.div_one] using toNat_paletteArg_bit pa 0
  have hdata : ((c &&& 0x07#8) <<< 1).toNat = 2 * (c.toNat % 8) := by
    rw [BitVec.toNat_shiftLeft, toNat_and_fieldMask (mask := 0x07#8) (lo := 0) (len := 3) (by decide) rfl]
    omega
  rw [toNat_directChannel hdata (by omega) (by omega), hbit]

theorem toNat_directGreen :
    (directChannel ((c &&& 0x38#8) >>> 2) ((pa.setWidth 8 >>> 1) &&& 1#8)).toNat =
      2 * (c.toNat / 8 % 8) + pa.toNat / 2 % 2 := by
  have hbit := toNat_paletteArg_bit pa 1
  have hdata : ((c &&& 0x38#8) >>> 2).toNat = 2 * (c.toNat / 8 % 8) := by
    rw [BitVec.toNat_ushiftRight, toNat_and_fieldMask (mask := 0x38#8) (lo := 3) (len := 3) (by decide) rfl]
    omega
  rw [toNat_directChannel hdata (by omega) (by omega), hbit, Nat.pow_one]

theorem toNat_directBlue :
    (directChannel ((c &&& 0xC0#8) >>> 4) ((pa.setWidth 8 >>> 2) &&& 1#8)).toNat =
      4 * (c.toNat / 64) + pa.toNat / 4 := by
  have hbit := toNat_paletteArg_bit pa 2
  have hdata : ((c &&& 0xC0#8) >>> 4).toNat = 2 * (2 * (c.toNat / 64)) := by
    rw [BitVec.toNat_ushiftRight, toNat_and_fieldMask (mask := 0xC0#8) (lo := 6) (len := 2) (by decide) rfl]
    omega
  rw [toNat_directChannel hdata (by omega) (by omega), hbit]
  omega

/-- A direct colour as the number its channels make (R224). -/
theorem direct15_eq_ofNat : direct15 c pa = BitVec.ofNat 16
    ((2 * (c.toNat % 8) + pa.toNat % 2) + 32 * (2 * (c.toNat / 8 % 8) + pa.toNat / 2 % 2) +
      1024 * (4 * (c.toNat / 64) + pa.toNat / 4)) := by
  rw [← BitVec.setWidth_eq (direct15 c pa), ← BitVec.ofNat_toNat, direct15, toNat_pack15, toNat_directRed,
    toNat_directGreen, toNat_directBlue]
  exact congrArg (BitVec.ofNat 16) (by ring)

end

/-- The palette argument is field A's low bits, and so of the command word (R88). -/
theorem paletteArgField_eq (w : CmdWord) : paletteArgField w = w.extractLsb' 48 3 :=
  extract_extract (by decide) w

/-! ### The obligations -/

/-- Settles O54: the scan stops at the first offending pixel, or passes and every pixel is read. -/
theorem pipeNativeResult : Obligations.PipeNativeResult := by
  refine ⟨fun _ h => decode_eq_some_iff.2 (masked_none_iff.2 h), fun s k v hz hk hv hbefore => ?_, fun s h => ?_⟩
  · obtain ⟨e, he, hr⟩ := indexError_of_outOfRange hz hv
    have hfirst := firstIndexError_of_first hk
      (fun j u hj hu => PalSize.lt_cap_iff.2 (.inr (hbefore j u hj hu))) he
    exact hr ▸ execPipeNative_of_error hfirst
  · exact ⟨_, _, execPipeNative_of_inRange (firstIndexError_of_inRange h), s.pixelReads_length,
      fun _ _ _ => State.pixelReads_getElem?_of_entry⟩

/-- Settles O55: both commands end by the one scan, with its error or with the one list of reads. -/
theorem pipeDisplayResult : Obligations.PipeDisplayResult := by
  refine ⟨fun _ h => decode_eq_some_iff.2 (masked_none_iff.2 h), fun s => ?_, fun s h => ?_⟩
  · cases hi : firstIndexError s.palSize (colormap s.tileFmt s.tile) with
    | some e =>
      exact .inl ⟨_, Response.failure_ok e, execPipeNative_of_error hi, execPipeDisplay_of_error hi⟩
    | none => exact .inr ⟨_, _, execPipeNative_of_inRange hi, execPipeDisplay_of_inRange hi⟩
  · exact ⟨_, _, execPipeDisplay_of_inRange (firstIndexError_of_inRange h),
      (List.length_map ..).trans s.pixelReads_length⟩

/-- Settles O56: element `k` is the direct colour of pixel `k`, by `direct15_eq_ofNat`. -/
theorem pipeDirectResult : Obligations.PipeDirectResult := by
  refine ⟨fun w h => decode_eq_some_iff.2 (masked_paletteArg_iff.2 ⟨h, paletteArgField_eq w⟩), fun pa s => ?_⟩
  refine ⟨(colormap s.tileFmt s.tile).map fun c => direct15 c pa, rfl,
    (List.length_map ..).trans (colormap_length ..), fun k c hk => ?_⟩
  rw [List.getElem?_map, hk, Option.map_some, direct15_eq_ofNat]

end Sys2Proof.Machine
end

section
/-! PROOFS. The exceptions family: which check of a command fails first (R248), that a command fails exactly when one
does, and from it what a failure changes (R250), which commands never fail (R252), and which kinds a command can
raise (R249). -/

namespace Sys2Proof.Machine

/-! ### A failure is not a success, and tells its error -/

theorem ErrorKind.code_injective : Function.Injective ErrorKind.code := by
  intro k k' h
  cases k <;> cases k' <;> simp_all [ErrorKind.code]

theorem Response.failure_injective : Function.Injective Response.failure := by
  rintro ⟨k, e0, e1⟩ ⟨k', e0', e1'⟩ h
  obtain ⟨-, hk, he0, he1, -, -⟩ := Response.mk.inj h
  exact congr (congr (congrArg CmdError.mk (ErrorKind.code_injective hk)) he0) he1

/-- The state a command leaves tells its response. -/
theorem answered_response_inj {s t : State} {r r' : Response} (h : answered s r = answered t r') : r = r' := by
  have hresponses : s.responses ++ [r] = t.responses ++ [r'] := congrArg State.responses h
  exact (List.append_singleton_inj.1 hresponses).2

@[simp] theorem State.raise_inj {s : State} {e e' : CmdError} : s.raise e = s.raise e' ↔ e = e' := by
  refine ⟨fun h => ?_, congrArg s.raise⟩
  rw [State.raise_eq, State.raise_eq] at h
  exact Response.failure_injective (answered_response_inj (Host.Outcome.next.inj h))

@[simp] theorem State.reply_ne_raise (s t : State) (w : BitVec 32) (d : Dout) (e : CmdError) :
    t.reply w d ≠ s.raise e := by
  intro h
  rw [State.reply_eq, State.raise_eq] at h
  exact absurd (congrArg Response.ok (answered_response_inj (Host.Outcome.next.inj h))) (by simp)

/-! ### The check that fails first (R248)

Each command with checks has them in one option, and ends in `raise` exactly when that is an error. -/

section
variable {s : State} {e : CmdError}

/-- PAL.LOAD: the select, then the length. -/
def palLoadCheck (sel : Byte) (s : State) : Option CmdError :=
  match PalSize.ofSelect sel with
  | none => some (illegalCommand (Instr.palLoad sel).opcode sel)
  | some z => lengthError (2 * z.cap) s.din.length

theorem execPalLoad_eq_raise_iff {sel : Byte} : execPalLoad sel s = s.raise e ↔ palLoadCheck sel s = some e := by
  cases hz : PalSize.ofSelect sel with
  | none => simp [execPalLoad, palLoadCheck, hz]
  | some z => cases hl : lengthError (2 * z.cap) s.din.length <;> simp [execPalLoad, palLoadCheck, hz, hl]

theorem execPalGet_eq_raise_iff {k : Byte} : execPalGet k s = s.raise e ↔ indexError s.palSize k = some e := by
  cases hk : indexError s.palSize k <;> simp [execPalGet, hk, reply15]

theorem execPalSet_eq_raise_iff {k : Byte} {c : Color15} :
    execPalSet k c s = s.raise e ↔ indexError s.palSize k = some e := by
  cases hk : indexError s.palSize k <;> simp [execPalSet, hk]

/-- The command with opcode `opc` and format code `f`: the code, then the checks that the format makes. -/
def formatCheck (opc f : Byte) (rest : TileFormat → Option CmdError) : Option CmdError :=
  match TileFormat.ofCode f with
  | none => some (illegalCommand opc f)
  | some fmt => rest fmt

theorem execTileNew_eq_raise_iff {f : Byte} :
    execTileNew f s = s.raise e ↔ formatCheck (Instr.tileNew f).opcode f (fun _ => none) = some e := by
  cases hf : TileFormat.ofCode f <;> simp [execTileNew, formatCheck, hf]

theorem execTileLoad_eq_raise_iff {f : Byte} : execTileLoad f s = s.raise e ↔
    formatCheck (Instr.tileLoad f).opcode f (fun fmt => lengthError fmt.bytes s.din.length) = some e := by
  cases hf : TileFormat.ofCode f with
  | none => simp [execTileLoad, formatCheck, hf]
  | some fmt => cases hl : lengthError fmt.bytes s.din.length <;> simp [execTileLoad, formatCheck, hf, hl]

theorem execTileGetPix_eq_raise_iff {x y : Byte} :
    execTileGetPix x y s = s.raise e ↔ coordError x.toNat y.toNat = some e := by
  cases hxy : coordError x.toNat y.toNat <;> simp [execTileGetPix, hxy]

theorem execTileSetPix_eq_raise_iff {x y v : Byte} :
    execTileSetPix x y v s = s.raise e ↔ pixelError config s.tileFmt x.toNat y.toNat v = some e := by
  cases hp : pixelError config s.tileFmt x.toNat y.toNat v <;> simp [execTileSetPix, hp]

/-- The error of TILE.ENCODE's scan of `vs`. -/
def encodeError (fmt : TileFormat) (vs : List Byte) : Option CmdError :=
  match encodeFrom config fmt 0 Memory.zero vs with
  | .error e => some e
  | .ok _ => none

theorem encodeError_eq_some_iff {fmt : TileFormat} {vs : List Byte} :
    encodeError fmt vs = some e ↔ encodeFrom config fmt 0 Memory.zero vs = .error e := by
  cases h : encodeFrom config fmt 0 Memory.zero vs <;> simp [encodeError, h]

theorem execTileEncode_eq_raise_iff {f : Byte} : execTileEncode f s = s.raise e ↔
    formatCheck (Instr.tileEncode f).opcode f (fun fmt => encodeError fmt s.din) = some e := by
  cases hf : TileFormat.ofCode f with
  | none => simp [execTileEncode, formatCheck, hf]
  | some fmt =>
    cases he : encodeFrom config fmt 0 Memory.zero s.din <;> simp [execTileEncode, formatCheck, encodeError, hf, he]

theorem execPipeNative_eq_raise_iff :
    execPipeNative s = s.raise e ↔ firstIndexError s.palSize (colormap s.tileFmt s.tile) = some e := by
  cases hi : firstIndexError s.palSize (colormap s.tileFmt s.tile) <;> simp [execPipeNative, hi]

theorem execPipeDisplay_eq_raise_iff :
    execPipeDisplay s = s.raise e ↔ firstIndexError s.palSize (colormap s.tileFmt s.tile) = some e := by
  cases hi : firstIndexError s.palSize (colormap s.tileFmt s.tile) <;> simp [execPipeDisplay, hi]

end

/-- The error of the first check of the command `i` that fails in the state `s`, if one does. -/
def failedCheck (s : State) (i : Instr) : Option CmdError :=
  match i with
  | .palLoad sel => palLoadCheck sel s
  | .palGet k => indexError s.palSize k
  | .palSet k _ => indexError s.palSize k
  | .tileNew f => formatCheck i.opcode f (fun _ => none)
  | .tileLoad f => formatCheck i.opcode f (fun fmt => lengthError fmt.bytes s.din.length)
  | .tileGetPix x y => coordError x.toNat y.toNat
  | .tileSetPix x y v => pixelError config s.tileFmt x.toNat y.toNat v
  | .tileEncode f => formatCheck i.opcode f (fun fmt => encodeError fmt s.din)
  | .pipeNative => firstIndexError s.palSize (colormap s.tileFmt s.tile)
  | .pipeDisplay => firstIndexError s.palSize (colormap s.tileFmt s.tile)
  -- The colour commands, TILE.READ, TILE.DECODE and PIPE.DIRECT check nothing (R252).
  | _ => none

/-- A command fails exactly when one of its checks does, and with the error of the first that does (R248). -/
theorem exec_eq_raise_iff {i : Instr} {s : State} {e : CmdError} :
    exec i s = s.raise e ↔ failedCheck s i = some e := by
  cases i with
  | palLoad sel => exact execPalLoad_eq_raise_iff
  | palGet k => exact execPalGet_eq_raise_iff
  | palSet k c => exact execPalSet_eq_raise_iff
  | tileNew f => exact execTileNew_eq_raise_iff
  | tileLoad f => exact execTileLoad_eq_raise_iff
  | tileGetPix x y => exact execTileGetPix_eq_raise_iff
  | tileSetPix x y v => exact execTileSetPix_eq_raise_iff
  | tileEncode f => exact execTileEncode_eq_raise_iff
  | pipeNative => exact execPipeNative_eq_raise_iff
  | pipeDisplay => exact execPipeDisplay_eq_raise_iff
  -- The others reply.
  | _ => exact iff_of_false (State.reply_ne_raise _ _ _ _ _) nofun

/-- A command none of whose checks fails succeeds, with one response. -/
theorem exec_of_checks_pass {i : Instr} {s : State} (h : failedCheck s i = none) :
    ∃ (t : State) (w : BitVec 32) (d : Dout), exec i s = t.reply w d ∧ t.responses = s.responses := by
  obtain ⟨e, hraise⟩ | ⟨t, w, d, hreply, hresp, -⟩ := exec_ends i s
  · rw [exec_eq_raise_iff, h] at hraise
    cases hraise
  · exact ⟨t, w, d, hreply, hresp⟩

/-! ### A failure response -/

/-- What `raise` leaves: its error as the response, and nothing else changed (R250). -/
theorem eq_of_raise {s t : State} {e : CmdError} {r : Response} (h : s.raise e = .next t)
    (hr : t.responses = s.responses ++ [r]) : r = Response.failure e ∧ t = answered s r := by
  cases h
  obtain rfl : Response.failure e = r := (List.append_singleton_inj.1 hr).2
  exact ⟨rfl, rfl⟩

/-- A command whose response is a failure has a check that failed, and has only answered with its error. -/
theorem failure_of_exec {i : Instr} {s t : State} {r : Response} (h : exec i s = .next t)
    (hr : t.responses = s.responses ++ [r]) (hok : r.ok = false) :
    ∃ e, failedCheck s i = some e ∧ r = Response.failure e ∧ t = answered s r := by
  cases hc : failedCheck s i with
  | some e =>
    rw [exec_eq_raise_iff.2 hc] at h
    exact ⟨e, rfl, eq_of_raise h hr⟩
  | none =>
    obtain ⟨u, w, d, hreply, hresp⟩ := exec_of_checks_pass hc
    rw [hreply] at h
    cases h
    obtain rfl : Response.success w d = r := by
      rw [← hresp] at hr
      exact (List.append_singleton_inj.1 hr).2
    simp at hok

/-- A word whose response is a failure, decodable or not, has only been answered. -/
theorem runCommand_of_failure {c : Command} {s t : State} {r : Response} (h : runCommand c s = .next t)
    (hr : t.responses = s.responses ++ [r]) (hok : r.ok = false) : t = answered s r := by
  rw [runCommand] at h
  cases hc : decode c.word with
  | some i =>
    simp only [hc] at h
    obtain ⟨-, -, -, ht⟩ := failure_of_exec h hr hok
    exact ht
  | none =>
    simp only [hc] at h
    exact (eq_of_raise h hr).2

/-- A step with a command at the port runs it. -/
theorem step_of_command {s : State} {c : Command} {rest : List Input} (h : s.inputs = .command c :: rest) :
    step s = runCommand c s := by
  simp only [step, takeInput, h]

/-- Settles O15: a failure has only answered, by `failure_of_exec` and `runCommand_of_failure`. -/
theorem failedCommandChangesNothing : Obligations.FailedCommandChangesNothing := by
  refine ⟨fun i s t r h hr hok => ?_, fun s t c rest r hin h hr hok => ?_⟩
  · obtain ⟨-, -, -, ht⟩ := failure_of_exec h hr hok
    exact ht
  · exact runCommand_of_failure ((step_of_command hin).symm.trans h) hr hok

/-! ### The commands that never fail -/

/-- No check of the commands of R252 fails: they have none, or, of the four palette users, the index check, which
passes with 256 entries. -/
theorem failedCheck_eq_none {i : Instr} {s : State}
    (hi : commandGroup i = 1 ∨ i.opcode ∈ [0x32#8, 0x35#8, 0x42#8] ∨
      (s.palSize = .pal256 ∧ i.opcode ∈ [0x21#8, 0x22#8, 0x40#8, 0x41#8])) : failedCheck s i = none := by
  cases i with
  | palGet | palSet =>
    have hz : s.palSize = .pal256 := by simpa [commandGroup, Instr.opcode] using hi
    exact indexError_eq_none.2 (PalSize.lt_cap_iff.2 (.inl hz))
  | pipeNative | pipeDisplay =>
    have hz : s.palSize = .pal256 := by simpa [commandGroup, Instr.opcode] using hi
    exact firstIndexError_of_inRange (.inl hz)
  -- The commands that the hypothesis leaves out.
  | palLoad | tileNew | tileLoad | tileGetPix | tileSetPix | tileEncode => simp [commandGroup, Instr.opcode] at hi
  | _ => rfl

/-- Settles O16: none of their checks fails, so they succeed. -/
theorem commandsThatNeverFail : Obligations.CommandsThatNeverFail := by
  intro i s hi
  obtain ⟨t, w, d, hreply, hresp⟩ := exec_of_checks_pass (failedCheck_eq_none hi)
  exact ⟨_, Response.success w d, hreply, congrArg (· ++ _) hresp, rfl⟩

/-! ### The kind of error that each check gives (R241) -/

theorem lengthError_kind {n k : Nat} {e : CmdError} (h : lengthError n k = some e) : e.kind = .lengthMismatch := by
  obtain hnone | hsome := lengthError_cases n k
  · simp [hnone] at h
  · cases hsome.symm.trans h
    rfl

theorem coordError_kind {x y : Nat} {e : CmdError} (h : coordError x y = some e) : e.kind = .outOfBounds := by
  obtain hnone | ⟨-, hsome⟩ | ⟨-, -, hsome⟩ := coordError_cases x y
  · simp [hnone] at h
  · cases hsome.symm.trans h
    rfl
  · cases hsome.symm.trans h
    rfl

/-- The value check fails only where there is a limit. -/
theorem valueError_kind {lim : Option Nat} {v : Byte} {e : CmdError} (h : valueError lim v = some e) :
    e.kind = .invalidValue ∧ lim ≠ none := by
  obtain hnone | ⟨n, rfl, -, hsome⟩ := valueError_cases lim v
  · simp [hnone] at h
  · cases hsome.symm.trans h
    exact ⟨rfl, nofun⟩

/-- The index check fails only with 16 entries. -/
theorem indexError_kind {z : PalSize} {i : Byte} {e : CmdError} (h : indexError z i = some e) :
    e.kind = .invalidIndex ∧ z = .pal16 := by
  obtain hnone | ⟨rfl, -, hsome⟩ := indexError_cases z i
  · simp [hnone] at h
  · cases hsome.symm.trans h
    exact ⟨rfl, rfl⟩

theorem firstIndexError_kind {z : PalSize} {vs : List Byte} {e : CmdError} (h : firstIndexError z vs = some e) :
    e.kind = .invalidIndex ∧ z = .pal16 := by
  obtain ⟨-, v, -, -, hv⟩ := firstIndexError_some h
  exact indexError_kind hv

theorem pixelError_kind {cfg : Config} {f : TileFormat} {x y : Nat} {v : Byte} {e : CmdError}
    (h : pixelError cfg f x y v = some e) :
    e.kind = .outOfBounds ∨ (e.kind = .invalidValue ∧ f.limit cfg ≠ none) := by
  obtain ⟨e', hcoord, hsome⟩ | ⟨-, hvalue⟩ := pixelError_cases cfg f x y v
  · cases hsome.symm.trans h
    exact .inl (coordError_kind hcoord)
  · exact .inr (valueError_kind (hvalue.symm.trans h))

/-- The scan of TILE.ENCODE fails as the pixel write of one of its elements does. -/
theorem encodeFrom_kind {cfg : Config} {f : TileFormat} {i : Nat} {m : Memory} {vs : List Byte} {e : CmdError}
    (h : encodeFrom cfg f i m vs = .error e) :
    e.kind = .outOfBounds ∨ (e.kind = .invalidValue ∧ f.limit cfg ≠ none) := by
  induction vs generalizing i m with
  | nil => simp [encodeFrom] at h
  | cons v vs ih =>
    cases hp : pixelError cfg f (i % 8) (i / 8) v with
    | some e' =>
      rw [encodeFrom_cons_of_error hp] at h
      cases h
      exact pixelError_kind hp
    | none =>
      rw [encodeFrom_cons_of_none hp] at h
      exact ih h

/-! ### Codes without a format or a capacity, and formats without a limit -/

theorem ofCode_eq_none_iff {f : Byte} : TileFormat.ofCode f = none ↔ legalFormatCode f = false := by
  unfold TileFormat.ofCode
  split <;> simp_all [legalFormatCode]
  omega

theorem ofSelect_eq_none_iff {sel : Byte} : PalSize.ofSelect sel = none ↔ legalSelect sel = false := by
  unfold PalSize.ofSelect
  split <;> simp_all [legalSelect]
  omega

theorem limit_eq_none_iff {cfg : Config} {f : TileFormat} : f.limit cfg = none ↔ f = .bpp8Inter ∨ f = .mode7 := by
  cases f <;> simp [TileFormat.limit]

/-- The formats with a limit have the codes 0 to 7. -/
theorem code_lt_of_limit {f : Byte} {fmt : TileFormat} (hf : TileFormat.ofCode f = some fmt) {cfg : Config}
    (hlim : fmt.limit cfg ≠ none) : f.toNat < 8 := by
  unfold TileFormat.ofCode at hf
  split at hf <;> cases hf <;> simp_all [TileFormat.limit]

/-! ### The matrix of R249 -/

/-- The matrix of R249: the kinds of error that the command `i` can raise in the state `s`. -/
inductive CanRaise (i : Instr) (s : State) : ErrorKind → Prop where
  /-- TILE.LOAD and PAL.LOAD (R243). -/
  | length (hi : i.opcode ∈ [0x31#8, 0x20#8]) : CanRaise i s .lengthMismatch
  /-- TILE.GETPIX, TILE.SETPIX and TILE.ENCODE (R244). -/
  | bounds (hi : i.opcode ∈ [0x33#8, 0x34#8, 0x36#8]) : CanRaise i s .outOfBounds
  /-- TILE.SETPIX, in a format with a limit (R245). -/
  | value (hi : i.opcode = 0x34#8) (hlim : s.tileFmt.limit config ≠ none) : CanRaise i s .invalidValue
  /-- TILE.ENCODE, to a format with a limit (R245). -/
  | encodedValue (f : Byte) (hi : i = .tileEncode f) (hf : f.toNat < 8) : CanRaise i s .invalidValue
  /-- The four palette users, with 16 entries (R246). -/
  | index (hz : s.palSize = .pal16) (hi : i.opcode ∈ [0x21#8, 0x22#8, 0x40#8, 0x41#8]) : CanRaise i s .invalidIndex
  /-- The ill-formed commands (R247). -/
  | illegal (hi : i.wellFormed = false) : CanRaise i s .illegalCommand

/-- An index error of one of the four palette users stands in the matrix. -/
theorem CanRaise.of_index {i : Instr} {s : State} {k : ErrorKind} (h : k = .invalidIndex ∧ s.palSize = .pal16)
    (hi : i.opcode ∈ [0x21#8, 0x22#8, 0x40#8, 0x41#8]) : CanRaise i s k := by
  obtain ⟨rfl, hz⟩ := h
  exact .index hz hi

/-- The checks of a command with a format code stand in the matrix where those after the code's do. -/
theorem CanRaise.of_formatCheck {i : Instr} {s : State} {e : CmdError} {f : Byte}
    {rest : TileFormat → Option CmdError} (hi : i.wellFormed = legalFormatCode f) (h : formatCheck i.opcode f rest = some e)
    (hrest : ∀ fmt, TileFormat.ofCode f = some fmt → rest fmt = some e → CanRaise i s e.kind) :
    CanRaise i s e.kind := by
  cases hf : TileFormat.ofCode f with
  | none =>
    simp only [formatCheck, hf, Option.some.injEq] at h
    subst h
    exact .illegal (hi.trans (ofCode_eq_none_iff.1 hf))
  | some fmt =>
    simp only [formatCheck, hf] at h
    exact hrest fmt hf h

theorem palLoad_canRaise {sel : Byte} {s : State} {e : CmdError} (h : palLoadCheck sel s = some e) :
    CanRaise (.palLoad sel) s e.kind := by
  cases hz : PalSize.ofSelect sel with
  | none =>
    simp only [palLoadCheck, hz, Option.some.injEq] at h
    subst h
    exact .illegal (ofSelect_eq_none_iff.1 hz)
  | some z =>
    simp only [palLoadCheck, hz] at h
    exact lengthError_kind h ▸ .length (by simp [Instr.opcode])

theorem tileSetPix_canRaise {x y v : Byte} {s : State} {e : CmdError}
    (h : pixelError config s.tileFmt x.toNat y.toNat v = some e) : CanRaise (.tileSetPix x y v) s e.kind := by
  obtain hk | ⟨hk, hlim⟩ := pixelError_kind h <;> rw [hk]
  · exact .bounds (by simp [Instr.opcode])
  · exact .value rfl hlim

theorem tileEncode_canRaise {f : Byte} {fmt : TileFormat} {s : State} {e : CmdError}
    (hf : TileFormat.ofCode f = some fmt) (h : encodeError fmt s.din = some e) :
    CanRaise (.tileEncode f) s e.kind := by
  obtain hk | ⟨hk, hlim⟩ := encodeFrom_kind (encodeError_eq_some_iff.1 h) <;> rw [hk]
  · exact .bounds (by simp [Instr.opcode])
  · exact .encodedValue f rfl (code_lt_of_limit hf hlim)

/-- The first check of a command that fails gives a kind of the command's row. -/
theorem canRaise_of_failedCheck {i : Instr} {s : State} {e : CmdError} (h : failedCheck s i = some e) :
    CanRaise i s e.kind := by
  cases i with
  | palLoad sel => exact palLoad_canRaise h
  | palGet k => exact .of_index (indexError_kind h) (by simp [Instr.opcode])
  | palSet k c => exact .of_index (indexError_kind h) (by simp [Instr.opcode])
  | tileNew f => exact .of_formatCheck rfl h nofun
  | tileLoad f =>
    exact .of_formatCheck rfl h fun _ _ hl => lengthError_kind hl ▸ .length (by simp [Instr.opcode])
  | tileGetPix x y => exact coordError_kind h ▸ .bounds (by simp [Instr.opcode])
  | tileSetPix x y v => exact tileSetPix_canRaise h
  | tileEncode f => exact .of_formatCheck rfl h fun _ hf he => tileEncode_canRaise hf he
  | pipeNative => exact .of_index (firstIndexError_kind h) (by simp [Instr.opcode])
  | pipeDisplay => exact .of_index (firstIndexError_kind h) (by simp [Instr.opcode])
  -- The others check nothing.
  | _ => cases h

/-- Settles O17: a failure response carries the error of the check that failed, whose kind is in the command's row of
the matrix. -/
theorem errorKindsPerCommand : Obligations.ErrorKindsPerCommand := by
  intro i s t r h hr hok
  obtain ⟨e, hcheck, rfl, -⟩ := failure_of_exec h hr hok
  have hkind : (Response.failure e).kind = e.kind.code := rfl
  have hrow := canRaise_of_failedCheck hcheck
  rw [hkind]
  generalize e.kind = k at hrow ⊢
  cases hrow with
  | length hi => exact .inl ⟨rfl, hi⟩
  | bounds hi => exact .inr (.inl ⟨rfl, hi⟩)
  | value hi hlim =>
    obtain ⟨hinter, hmode7⟩ := not_or.1 (mt limit_eq_none_iff.2 hlim)
    exact .inr (.inr (.inl ⟨rfl, hi, hinter, hmode7⟩))
  | encodedValue f hi hf => exact .inr (.inr (.inr (.inl ⟨rfl, f, hi, hf⟩)))
  | index hz hi => exact .inr (.inr (.inr (.inr (.inl ⟨rfl, hz, hi⟩))))
  | illegal hi => exact .inr (.inr (.inr (.inr (.inr ⟨rfl, hi⟩))))

end Sys2Proof.Machine
end

section
/-! PROOFS. The reset and hazards family: once every entry of the palette has been written, as R284 asks of the host at
boot, the palette readers neither draw a free value (R34) nor depend on how many were drawn before. -/

namespace Sys2Proof.Machine

/-! ### The reads of written entries -/

theorem State.paletteWritten_iff {s : State} :
    s.paletteWritten = true ↔ ∀ i < s.palSize.cap, ∃ c, s.pal.entry i = some c := by
  simp [State.paletteWritten, Option.isSome_iff_exists]

/-- Where every index read is of a written entry, the reads draw nothing, and give the same colours under every count
of free values. -/
theorem Palette.readAll_of_written {p : Palette} {is : List Byte} (h : ∀ i ∈ is, ∃ c, p.entry i.toNat = some c) :
    ∃ cs, ∀ n, p.readAll n is = (cs, n) := by
  induction is with
  | nil => exact ⟨[], fun _ => rfl⟩
  | cons i is ih =>
    obtain ⟨⟨c, hc⟩, hrest⟩ := List.forall_mem_cons.1 h
    obtain ⟨cs, hcs⟩ := ih hrest
    exact ⟨c :: cs, fun n => by simp only [Palette.readAll, Palette.read_of_entry hc, hcs]⟩

/-- With a written palette, pixels that pass the scan are read so (R221). -/
theorem State.pixelReads_of_paletteWritten {s : State} (hw : s.paletteWritten = true)
    (hi : firstIndexError s.palSize (colormap s.tileFmt s.tile) = none) :
    ∃ cs, ∀ n, (s.putDraws n).pixelReads = (cs, n) :=
  Palette.readAll_of_written fun v hv => State.paletteWritten_iff.1 hw v.toNat (firstIndexError_eq_none.1 hi v hv)

/-! ### Commands that ignore the count of free values -/

/-- In the state `s` the meaning `m` does the same under every count of free values, and leaves the count. -/
def IgnoresDraws (m : State → Host.Outcome State Fault Refusal) (s : State) : Prop :=
  ∃ t : State, ∀ n, m (s.putDraws n) = .next (t.putDraws n)

/-- A meaning that fails with one error under every count. -/
theorem IgnoresDraws.of_raise {m : State → Host.Outcome State Fault Refusal} {s : State} (e : CmdError)
    (h : ∀ n, m (s.putDraws n) = (s.putDraws n).raise e) : IgnoresDraws m s :=
  ⟨answered s (Response.failure e), h⟩

section
variable {s : State} (hw : s.paletteWritten = true)
include hw

theorem execPalGet_ignoresDraws (k : Byte) : IgnoresDraws (execPalGet k) s := by
  cases hk : indexError s.palSize k with
  | some e => exact .of_raise e fun _ => execPalGet_eq_raise_iff.2 hk
  | none =>
    have hcap := indexError_eq_none.1 hk
    obtain ⟨c, hc⟩ := State.paletteWritten_iff.1 hw k.toNat hcap
    exact ⟨answered s (okWord (c.setWidth 32)), fun n => execPalGet_of_entry (s := s.putDraws n) hcap hc⟩

theorem execPipeNative_ignoresDraws : IgnoresDraws execPipeNative s := by
  cases hi : firstIndexError s.palSize (colormap s.tileFmt s.tile) with
  | some e => exact .of_raise e fun _ => execPipeNative_eq_raise_iff.2 hi
  | none =>
    obtain ⟨cs, hcs⟩ := State.pixelReads_of_paletteWritten hw hi
    refine ⟨answered s (okOut (.color15s cs)), fun n => ?_⟩
    rw [execPipeNative_of_inRange (s := s.putDraws n) hi, hcs]
    rfl

theorem execPipeDisplay_ignoresDraws : IgnoresDraws execPipeDisplay s := by
  cases hi : firstIndexError s.palSize (colormap s.tileFmt s.tile) with
  | some e => exact .of_raise e fun _ => execPipeDisplay_eq_raise_iff.2 hi
  | none =>
    obtain ⟨cs, hcs⟩ := State.pixelReads_of_paletteWritten hw hi
    refine ⟨answered s (okOut (.color24s (cs.map to24))), fun n => ?_⟩
    rw [execPipeDisplay_of_inRange (s := s.putDraws n) hi, hcs]
    rfl

/-- With a written palette the three palette readers ignore the count of free values (R284). -/
theorem exec_ignoresDraws {i : Instr} (hi : i.opcode ∈ paletteReaderOpcodes) : IgnoresDraws (exec i) s := by
  cases i with
  | palGet k => exact execPalGet_ignoresDraws hw k
  | pipeNative => exact execPipeNative_ignoresDraws hw
  | pipeDisplay => exact execPipeDisplay_ignoresDraws hw
  | _ => simp [paletteReaderOpcodes, Instr.opcode] at hi

end

/-- Settles O34: a command that ignores the count of free values leaves in particular the count the state has. -/
theorem writtenPaletteGivesNoFreeValue : Obligations.WrittenPaletteGivesNoFreeValue := by
  intro i s n hw hi
  obtain ⟨t, ht⟩ := exec_ignoresDraws hw hi
  exact ⟨t.putDraws s.draws, ht s.draws, rfl, ht n⟩

end Sys2Proof.Machine
end

section
/-! PROOFS. How a command fails, in the claims' terms: a check that fails decides the whole next state (`failedCheck`),
and each error is one of `err` (R241, R242). -/

namespace Sys2Proof.Machine

/-! ### The errors as responses -/

/-- The illegal command in the claims' terms: kind 7, the opcode and field A. -/
theorem failure_illegalCommand (opc a : Byte) : Response.failure (illegalCommand opc a) = err 7 opc.toNat a.toNat := by
  simp only [err, BitVec.ofNat_toNat]
  rfl

theorem failure_lengthMismatch (n k : Nat) :
    Response.failure { kind := .lengthMismatch, e0 := infoField n, e1 := infoField k } = err 1 n k := rfl

theorem failure_outOfBounds (c : Nat) :
    Response.failure { kind := .outOfBounds, e0 := infoField c, e1 := infoField 8 } = err 2 c 8 := rfl

/-- A command whose check fails answers with that error, and changes nothing else (R248, R250). -/
theorem exec_of_failedCheck {i : Instr} {s : State} {e : CmdError} {r : Response} (h : failedCheck s i = some e)
    (hr : Response.failure e = r) : exec i s = .next (answered s r) := by
  rw [exec_eq_raise_iff.2 h, State.raise_eq, hr]

/-! ### The checks that fail -/

/-- A format code of 10 or more fails before any other check of the command `i`. -/
theorem exec_of_illegalCode {i : Instr} {s : State} {f : Byte} {rest : TileFormat → Option CmdError}
    (hi : failedCheck s i = formatCheck i.opcode f rest) (hf : 10 ≤ f.toNat) :
    exec i s = .next (answered s (err 7 i.opcode.toNat f.toNat)) := by
  have hnone : TileFormat.ofCode f = none := ofCode_eq_none_iff.2 (decide_eq_false (Nat.not_lt.2 hf))
  have hcheck : formatCheck i.opcode f rest = some (illegalCommand i.opcode f) := by simp only [formatCheck, hnone]
  exact exec_of_failedCheck (hi.trans hcheck) (failure_illegalCommand i.opcode f)

/-- A capacity select of 2 or more fails before the length check. -/
theorem execPalLoad_of_illegalSelect {sel : Byte} (hsel : 2 ≤ sel.toNat) (s : State) :
    exec (.palLoad sel) s = .next (answered s (err 7 0x20 sel.toNat)) := by
  have hnone : PalSize.ofSelect sel = none := ofSelect_eq_none_iff.2 (decide_eq_false (Nat.not_lt.2 hsel))
  have hcheck : palLoadCheck sel s = some (illegalCommand 0x20#8 sel) := by simp only [palLoadCheck, hnone]; rfl
  exact exec_of_failedCheck (i := .palLoad sel) hcheck (failure_illegalCommand 0x20#8 sel)

/-- With a legal code the checks that the format makes are what remains. -/
theorem formatCheck_of_code {f : Byte} {fmt : TileFormat} (hf : TileFormat.ofCode f = some fmt) (opc : Byte)
    (rest : TileFormat → Option CmdError) : formatCheck opc f rest = rest fmt := by
  simp only [formatCheck, hf]

/-- With a legal select the length check is what remains. -/
theorem palLoadCheck_of_select {sel : Byte} {z : PalSize} (hz : PalSize.ofSelect sel = some z) (s : State) :
    palLoadCheck sel s = lengthError (2 * z.cap) s.din.length := by
  simp only [palLoadCheck, hz]

theorem lengthError_of_ne {n k : Nat} (h : k ≠ n) :
    lengthError n k = some { kind := .lengthMismatch, e0 := infoField n, e1 := infoField k } :=
  if_neg h

theorem boundsError_of_le {c : Nat} (h : 8 ≤ c) :
    boundsError c = some { kind := .outOfBounds, e0 := infoField c, e1 := infoField 8 } :=
  if_pos h

/-- An x out of range is reported, whatever y is. -/
theorem coordError_of_x {x : Nat} (hx : 8 ≤ x) (y : Nat) :
    coordError x y = some { kind := .outOfBounds, e0 := infoField x, e1 := infoField 8 } := by
  rw [coordError, boundsError_of_le hx, Option.some_or]

/-- A y out of range is reported where x is in range. -/
theorem coordError_of_y {x y : Nat} (hx : x < 8) (hy : 8 ≤ y) :
    coordError x y = some { kind := .outOfBounds, e0 := infoField y, e1 := infoField 8 } := by
  rw [coordError, boundsError_eq_none.2 hx, Option.none_or, boundsError_of_le hy]

theorem valueError_of_le {n : Nat} {v : Byte} (h : n ≤ v.toNat) :
    valueError (some n) v = some { kind := .invalidValue, e0 := v.setWidth 16, e1 := infoField n } :=
  if_pos h

section
variable {cfg : Config} {f : TileFormat} {x y : Nat} {v : Byte}

/-- A coordinate out of range is reported before the value. -/
theorem pixelError_of_coordError {e : CmdError} (h : coordError x y = some e) : pixelError cfg f x y v = some e := by
  rw [pixelError, h, Option.some_or]

/-- With both coordinates in range a value at or above the limit is reported. -/
theorem pixelError_of_refused {n : Nat} (hx : x < 8) (hy : y < 8) (hlim : f.limit cfg = some n) (hv : n ≤ v.toNat) :
    pixelError cfg f x y v = some { kind := .invalidValue, e0 := v.setWidth 16, e1 := infoField n } := by
  rw [pixelError, coordError_eq_none.2 ⟨hx, hy⟩, Option.none_or, hlim, valueError_of_le hv]

end

end Sys2Proof.Machine
end

section
/-! PROOFS. The steps: a step runs the word at the port, answers an illegal one, idles, or resets (R60, R90, R259,
R280); in each case it has a next state. -/

namespace Sys2Proof.Machine

/-! ### One step, by what is at the port -/

theorem step_of_idle {s : State} (h : s.inputs = []) : step s = .next s := by
  simp only [step, takeInput, h]

theorem step_of_reset {s : State} {rest : List Input} (h : s.inputs = .reset :: rest) :
    step s = .next s.takeReset := by
  simp only [step, takeInput, h]

/-- A word with the opcode of a command that reads field A alone decodes to that command of its field A (R88). -/
theorem decode_of_a {w : CmdWord} {i : Instr} (hbits : usedBits i = 0xFFFF000000000000#64)
    (hencode : encode i = mkWord i.opcode (aField w) 0 0 0) (hopc : opcField w = i.opcode) : decode w = some i := by
  rw [decode_eq_some_iff, hbits, hencode]
  exact masked_a_iff.2 ⟨hopc, rfl⟩

section
variable {s : State} {c : Command} {rest : List Input} (h : s.inputs = .command c :: rest)
include h

theorem step_of_decode {i : Instr} (hi : decode c.word = some i) : step s = exec i s := by
  rw [step_of_command h]
  simp only [runCommand, hi]

/-- A word that decodes to nothing is answered with its opcode and field A. -/
theorem step_of_undecodable (hnone : decode c.word = none) :
    step s = .next (answered s (err 7 (opcField c.word).toNat (aField c.word).toNat)) := by
  rw [step_of_command h, ← failure_illegalCommand]
  simp only [runCommand, hnone, State.raise_eq]

/-- A word whose field A is a format code of 10 or more, with the opcode of a command `i` that checks the code first,
is answered with its opcode and field A. -/
theorem step_of_illegalCode (i : Instr) {checks : TileFormat → Option CmdError}
    (hbits : usedBits i = 0xFFFF000000000000#64) (hencode : encode i = mkWord i.opcode (aField c.word) 0 0 0)
    (hchecks : failedCheck s i = formatCheck i.opcode (aField c.word) checks) (hopc : opcField c.word = i.opcode)
    (hcode : 10 ≤ (aField c.word).toNat) :
    step s = .next (answered s (err 7 (opcField c.word).toNat (aField c.word).toNat)) := by
  rw [step_of_decode h (decode_of_a hbits hencode hopc), exec_of_illegalCode hchecks hcode, hopc]

end

/-- A presented word is at the head of the inputs. -/
theorem presentWord_head (w : CmdWord) (ins : List Input) :
    ∃ c rest, presentWord w ins = .command c :: rest ∧ c.word = w := by
  match ins with
  | [] => exact ⟨_, _, rfl, rfl⟩
  | .reset :: _ => exact ⟨_, _, rfl, rfl⟩
  | .command _ :: _ => exact ⟨_, _, rfl, rfl⟩

/-! ### The obligations -/

/-- Settles O6: an undefined opcode decodes to nothing (`decodesExactlyDefinedOpcodes`); a format code or a capacity
select without a meaning decodes, and fails the command's first check. -/
theorem illegalWordAnswered : Obligations.IllegalWordAnswered := by
  rintro s c rest hin (hundefined | ⟨hopc, hcode⟩ | ⟨hopc, hsel⟩)
  · have hnone : decode c.word = none :=
      Option.not_isSome_iff_eq_none.1 (mt (decodesExactlyDefinedOpcodes c.word).1 hundefined)
    exact step_of_undecodable hin hnone
  · simp only [List.mem_cons, List.not_mem_nil, or_false] at hopc
    obtain hopc | hopc | hopc := hopc
    · exact step_of_illegalCode hin (.tileNew _) rfl rfl rfl hopc hcode
    · exact step_of_illegalCode hin (.tileLoad _) rfl rfl rfl hopc hcode
    · exact step_of_illegalCode hin (.tileEncode _) rfl rfl rfl hopc hcode
  · rw [hopc]
    exact (step_of_decode hin (decode_of_a (i := .palLoad (aField c.word)) rfl rfl hopc)).trans
      (execPalLoad_of_illegalSelect hsel s)

/-- Settles O12: by `runCommand_answers` a presented word makes one update, which leaves inputs and responses, and is
then answered. -/
theorem everyStepCompletes : Obligations.EveryStepCompletes := by
  have hcommand : ∀ (s : State) (c : Command) (rest : List Input), s.inputs = .command c :: rest →
      ∃ t r, step s = .next t ∧ t.inputs = rest ∧ t.responses = s.responses ++ [r] := by
    intro s c rest hin
    obtain ⟨t, r, hupdate, hrun⟩ := (runCommand_answers c s).next
    refine ⟨answered t r, r, (step_of_command hin).trans hrun, ?_, congrArg (· ++ [r]) hupdate.responses⟩
    exact congrArg List.tail (hupdate.inputs.trans hin)
  refine ⟨fun s => ?_, hcommand⟩
  obtain ⟨-, hidle⟩ | ⟨_, -, hreset⟩ | ⟨c, rest, hin, -⟩ := step_cases s
  · exact ⟨s, hidle⟩
  · exact ⟨s.takeReset, hreset⟩
  · obtain ⟨t, -, hstep, -, -⟩ := hcommand s c rest hin
    exact ⟨t, hstep⟩

/-- Settles O5: the word that `withFetchWord` presents is the one at the port. -/
theorem stepRunsDecodedCommand : Obligations.StepRunsDecodedCommand := by
  refine ⟨fun s c rest i hin hi => step_of_decode hin hi, fun s nbits w i hi => ?_⟩
  obtain ⟨c, rest, hin, hword⟩ := presentWord_head (tableWord nbits w) s.inputs
  exact step_of_decode (s := s.withFetchWord nbits w) hin (hword ▸ hi)

/-- Settles O7. -/
theorem idleStepHoldsState : Obligations.IdleStepHoldsState :=
  fun _ => step_of_idle

/-- Settles O8. -/
theorem resetEventResetsItems : Obligations.ResetEventResetsItems := fun s _ hin =>
  ⟨s.takeReset, step_of_reset hin, s.takeReset_tileFmt, Memory.read_zero, s.takeReset_palSize, fun _ => rfl,
    congrArg List.tail hin, s.takeReset_responses, s.takeReset_draws⟩

end Sys2Proof.Machine
end

section
/-! PROOFS. The results of the two colour constructors (R116, R124), of PAL.LOAD (R141), and how many free values the
palette readers draw (R34, U1). -/

namespace Sys2Proof.Machine

/-! ### The colour constructors -/

theorem make15_eq_ofNat (r g b : Byte) : (make15 r g b).setWidth 32 =
    BitVec.ofNat 32 (r.toNat % 32 + 32 * (g.toNat % 32) + 1024 * (b.toNat % 32)) := by
  rw [← BitVec.ofNat_toNat, make15, toNat_pack15]
  simp only [mask5, toNat_extract]
  exact congrArg (BitVec.ofNat 32) (by omega)

theorem pack24_eq_ofNat (r g b : Byte) :
    pack24 r g b = BitVec.ofNat 32 (65536 * r.toNat + 256 * g.toNat + b.toNat) := by
  rw [← BitVec.setWidth_eq (pack24 r g b), ← BitVec.ofNat_toNat, toNat_pack24]
  exact congrArg (BitVec.ofNat 32) (by omega)

/-- Settles O24: a packed colour as the number its channels make. -/
theorem colorFromChannelsResult : Obligations.ColorFromChannelsResult :=
  ⟨fun _ h => decode_eq_some_iff.2 (masked_abc_iff.2 ⟨h, rfl, rfl, rfl⟩),
    fun r g b s => s.reply_word (make15_eq_ofNat r g b),
    fun _ h => decode_eq_some_iff.2 (masked_abc_iff.2 ⟨h, rfl, rfl, rfl⟩),
    fun r g b s => s.reply_word (pack24_eq_ofNat r g b)⟩

/-! ### PAL.LOAD -/

/-- The entries of a palette made from a payload of the exact length: two bytes each, low byte first, and none beyond
the capacity (R141). -/
theorem entry_ofColors_colorsOf {bs : List Byte} {n : Nat} (hlen : bs.length = 2 * n) :
    (∀ i, i < n → (Palette.ofColors (colorsOf bs)).entry i = some (bs.getD (2 * i + 1) 0 ++ bs.getD (2 * i) 0)) ∧
      (∀ i, n ≤ i → (Palette.ofColors (colorsOf bs)).entry i = none) := by
  simp only [Palette.ofColors_entry]
  refine ⟨fun i hi => colorsOf_getElem? bs i (by omega), fun i hi => ?_⟩
  exact List.getElem?_eq_none (by rw [colorsOf_length]; omega)

/-- PAL.LOAD with a legal select and another length. -/
theorem execPalLoad_of_length_ne {sel : Byte} {z : PalSize} {s : State} (hz : PalSize.ofSelect sel = some z)
    (hlen : s.din.length ≠ 2 * z.cap) :
    exec (.palLoad sel) s = .next (answered s (err 1 (2 * z.cap) s.din.length)) := by
  have hcheck := (palLoadCheck_of_select hz s).trans (lengthError_of_ne hlen)
  exact exec_of_failedCheck (i := .palLoad sel) hcheck (failure_lengthMismatch _ _)

/-- Settles O30: the two legal selects name the two capacities, and the payload's length decides. -/
theorem palLoadResult : Obligations.PalLoadResult := by
  refine ⟨fun w h => decode_eq_some_iff.2 (masked_a_iff.2 ⟨h, rfl⟩),
    fun sel s hsel => execPalLoad_of_illegalSelect hsel s, fun sel z n s hsel => ?_⟩
  obtain ⟨hz, rfl⟩ : PalSize.ofSelect sel = some z ∧ n = z.cap := by
    obtain ⟨rfl, rfl, rfl⟩ | ⟨rfl, rfl, rfl⟩ := hsel <;> exact ⟨rfl, rfl⟩
  exact ⟨execPalLoad_of_length_ne hz, fun hlen => ⟨_, execPalLoad_of_length hz hlen, entry_ofColors_colorsOf hlen⟩⟩

/-! ### The free values drawn -/

/-- One read draws one free value, or none where the entry has been written. -/
theorem Palette.read_draws (p : Palette) (n i : Nat) :
    (p.read n i).2 = n + if (p.entry i).isNone then 1 else 0 := by
  obtain ⟨c, hc, hread⟩ | ⟨hnone, hread⟩ := p.read_cases n i
  · simp [hread, hc]
  · simp [hread, hnone]

/-- The reads of a list of indices draw one free value for each index whose entry has not been written. -/
theorem Palette.readAll_draws (p : Palette) (is : List Byte) (n : Nat) :
    (p.readAll n is).2 = n + is.countP (fun v => (p.entry v.toNat).isNone) := by
  induction is generalizing n with
  | nil => rfl
  | cons i is ih =>
    have hcons : (p.readAll n (i :: is)).2 = (p.readAll (p.read n i.toNat).2 is).2 := rfl
    rw [hcons, ih, p.read_draws, List.countP_cons]
    omega

/-- PAL.GET with a valid index. -/
theorem execPalGet_of_lt {i : Byte} {s : State} (hi : i.toNat < s.palSize.cap) : execPalGet i s =
    reply15 (s.putDraws (s.pal.read s.draws i.toNat).2) (s.pal.read s.draws i.toNat).1 := by
  simp only [execPalGet, indexError_eq_none.2 hi]

/-- Settles O35: the count after a command is the count after its palette reads. -/
theorem oneFreeValuePerUnwrittenRead : Obligations.OneFreeValuePerUnwrittenRead := by
  refine ⟨fun i s hi => ?_, fun s hpix => ?_⟩
  · exact ⟨_, execPalGet_of_lt (PalSize.lt_cap_iff.2 hi), s.pal.read_draws s.draws i.toNat⟩
  · have hscan := firstIndexError_of_inRange hpix
    exact ⟨_, _, execPipeNative_of_inRange hscan, execPipeDisplay_of_inRange hscan, rfl,
      s.pal.readAll_draws (colormap s.tileFmt s.tile) s.draws⟩

end Sys2Proof.Machine
end

section
/-! PROOFS. The results of the tile commands that check their operands: TILE.NEW, TILE.LOAD, TILE.GETPIX, TILE.SETPIX
and TILE.ENCODE (R191, R192, R194, R195, R197); and the state after reset, whose tile is TILE.NEW's (R33). -/

namespace Sys2Proof.Machine

/-! ### The zero tile -/

@[simp] theorem getPixel_zero (f : TileFormat) (x y : Nat) : getPixel f Memory.zero x y = 0x00#8 := by
  cases hl : f.layout with
  | none =>
    obtain rfl := layout_none hl
    rfl
  | some l =>
    refine BitVec.eq_of_getLsbD_eq fun p _ => ?_
    rw [getLsbD_getPixel hl, Memory.read_zero, BitVec.getLsbD_zero, BitVec.getLsbD_zero, Bool.and_false]

theorem colormap_zero (f : TileFormat) : colormap f Memory.zero = List.replicate 64 0x00#8 :=
  List.eq_replicate_iff.2
    ⟨colormap_length f Memory.zero, forall_mem_colormap.2 fun x y _ _ => getPixel_zero f x y⟩

/-! ### TILE.NEW and TILE.LOAD -/

/-- TILE.NEW with a legal code. -/
theorem execTileNew_of_code {f : Byte} {fmt : TileFormat} (hf : TileFormat.ofCode f = some fmt) (s : State) :
    execTileNew f s = (s.putTile fmt Memory.zero).reply 0 .empty := by
  simp only [execTileNew, hf]

/-- TILE.LOAD with a legal code and another length. -/
theorem execTileLoad_of_length_ne {f : Byte} {fmt : TileFormat} {s : State} (hf : TileFormat.ofCode f = some fmt)
    (hlen : s.din.length ≠ fmt.bytes) :
    exec (.tileLoad f) s = .next (answered s (err 1 fmt.bytes s.din.length)) := by
  have hcheck := (formatCheck_of_code hf 0x31#8 fun fmt => lengthError fmt.bytes s.din.length).trans
    (lengthError_of_ne hlen)
  exact exec_of_failedCheck (i := .tileLoad f) hcheck (failure_lengthMismatch _ _)

/-- Byte `k` of a payload is what the tile it gives reads there. -/
theorem getElem?_eq_ofBytes_read {bs : List Byte} {k : Nat} (hk : k < bs.length) :
    bs[k]? = some ((Memory.ofBytes bs).read k) := by
  simp [Memory.ofBytes_read, hk]

/-- Settles O44. -/
theorem tileNewResult : Obligations.TileNewResult :=
  ⟨fun _ h => decode_eq_some_iff.2 (masked_a_iff.2 ⟨h, rfl⟩),
    fun f _ hf => exec_of_illegalCode (i := .tileNew f) rfl hf,
    fun _ fmt s hf => ⟨Memory.zero, execTileNew_of_code hf s, Memory.read_zero, colormap_zero fmt⟩⟩

/-- Settles O45: the code decides first, then the payload's length. -/
theorem tileLoadResult : Obligations.TileLoadResult := by
  refine ⟨fun w h => decode_eq_some_iff.2 (masked_a_iff.2 ⟨h, rfl⟩),
    fun f s hf => exec_of_illegalCode (i := .tileLoad f) rfl hf, fun f fmt s hf => ?_⟩
  refine ⟨execTileLoad_of_length_ne hf, fun hlen => ⟨_, execTileLoad_of_length hf hlen, fun k hk => ?_⟩⟩
  exact getElem?_eq_ofBytes_read (hlen ▸ hk)

/-- Settles O9: the tile after reset is the one `execTileNew_of_code` gives for code 0. -/
theorem resetStateItems : Obligations.ResetStateItems :=
  ⟨rfl, Memory.read_zero, rfl, fun _ => rfl, fun s =>
    ⟨_, execTileNew_of_code (f := 0#8) (fmt := .bpp1) rfl s, rfl, rfl⟩⟩

/-! ### TILE.GETPIX and TILE.SETPIX -/

/-- TILE.GETPIX with both coordinates in range. -/
theorem execTileGetPix_of_lt {x y : Byte} (hx : x.toNat < 8) (hy : y.toNat < 8) (s : State) :
    execTileGetPix x y s = s.reply ((getPixel s.tileFmt s.tile x.toNat y.toNat).setWidth 32) .empty := by
  simp only [execTileGetPix, coordError_eq_none.2 ⟨hx, hy⟩]

/-- Settles O47: x, then y, then the pixel. -/
theorem tileGetPixResult : Obligations.TileGetPixResult := by
  refine ⟨fun w h => decode_eq_some_iff.2 (masked_ab_iff.2 ⟨h, rfl, rfl⟩), fun x y s => ⟨fun hx => ?_, fun hx hy => ?_,
    fun hx hy => ?_⟩⟩
  · exact exec_of_failedCheck (i := .tileGetPix x y) (coordError_of_x hx y.toNat) (failure_outOfBounds _)
  · exact exec_of_failedCheck (i := .tileGetPix x y) (coordError_of_y hx hy) (failure_outOfBounds _)
  · exact (execTileGetPix_of_lt hx hy s).trans (s.reply_word (BitVec.ofNat_toNat _ _).symm)

/-- TILE.SETPIX with both coordinates in range and an accepted value. -/
theorem execTileSetPix_of_accepted {x y v : Byte} {s : State} (hx : x.toNat < 8) (hy : y.toNat < 8)
    (hv : acceptedValue s.tileFmt v) : execTileSetPix x y v s =
      (s.putTile s.tileFmt (setPixel s.tileFmt s.tile x.toNat y.toNat v)).reply 0 .empty := by
  simp only [execTileSetPix, pixelError_eq_none.2 ⟨⟨hx, hy⟩, hv⟩]

/-- A byte that holds no part of the pixel reads as before. -/
theorem setPixel_read_other {f : TileFormat} {x y k : Nat} (h : ¬ storedByte f x y k) (m : Memory) (v : Byte) :
    (setPixel f m x y v).read k = m.read k := by
  cases hl : f.layout with
  | none =>
    obtain rfl := layout_none hl
    exact Memory.read_write_other h m v
  | some l =>
    simp only [storedByte, hl, not_exists, not_and] at h
    rw [setPixel_of_layout hl, setPlanes_read_other h]

/-- Settles O48: x, then y, then the value, then the pixel is set. -/
theorem tileSetPixResult : Obligations.TileSetPixResult := by
  refine ⟨fun w h => decode_eq_some_iff.2 (masked_abc_iff.2 ⟨h, rfl, rfl, rfl⟩), fun x y v s => ⟨fun hx => ?_,
    fun hx hy => ?_, fun n hx hy hlim hv => ?_, fun hx hy hacc => ?_⟩⟩
  · exact exec_of_failedCheck (i := .tileSetPix x y v) (pixelError_of_coordError (coordError_of_x hx y.toNat))
      (failure_outOfBounds _)
  · exact exec_of_failedCheck (i := .tileSetPix x y v) (pixelError_of_coordError (coordError_of_y hx hy))
      (failure_outOfBounds _)
  · exact exec_of_failedCheck (i := .tileSetPix x y v) (pixelError_of_refused hx hy hlim hv)
      (failure_invalidValue v n)
  · obtain ⟨hsame, -⟩ := getPixelAfterSetPixel s.tileFmt s.tile x.toNat y.toNat v hx hy
    exact ⟨_, execTileSetPix_of_accepted hx hy hacc, rfl, hsame hacc.lt, fun k hk => setPixel_read_other hk s.tile v⟩

/-! ### TILE.ENCODE -/

/-- A scan goes on after the elements it has accepted. -/
theorem encodeFrom_append {cfg : Config} {f : TileFormat} {i : Nat} {m m' : Memory} {us : List Byte}
    (h : encodeFrom cfg f i m us = .ok m') (vs : List Byte) :
    encodeFrom cfg f i m (us ++ vs) = encodeFrom cfg f (i + us.length) m' vs := by
  induction us generalizing i m with
  | nil =>
    obtain rfl : m = m' := by simpa [encodeFrom] using h
    rfl
  | cons u us ih =>
    cases hu : pixelError cfg f (i % 8) (i / 8) u with
    | some e => simp [encodeFrom_cons_of_error hu] at h
    | none =>
      rw [encodeFrom_cons_of_none hu] at h
      rw [List.cons_append, encodeFrom_cons_of_none hu, ih h, List.length_cons, Nat.add_right_comm, Nat.add_assoc]

/-- The scan reports the first element that fails, where all before it are accepted (R197). -/
theorem encodeFrom_of_first {f : TileFormat} {vs : List Byte} {k : Nat} {v : Byte} {e : CmdError} (hk : k ≤ 64)
    (hv : vs[k]? = some v) (hbefore : ∀ (j : Nat) (u : Byte), j < k → vs[j]? = some u → acceptedValue f u)
    (he : pixelError config f (k % 8) (k / 8) v = some e) (m : Memory) : encodeFrom config f 0 m vs = .error e := by
  obtain ⟨hlt, hget⟩ := List.getElem?_eq_some_iff.1 hv
  have hlen : (vs.take k).length = k := List.length_take_of_le hlt.le
  have hsplit : vs = vs.take k ++ v :: vs.drop (k + 1) := by
    rw [← hget, List.getElem_cons_drop, List.take_append_drop]
  have hacc : ∀ u ∈ vs.take k, acceptedValue f u := fun u hu => by
    obtain ⟨j, hj, rfl⟩ := List.mem_take_iff_getElem.1 hu
    exact hbefore j _ (lt_min_iff.1 hj).1 (List.getElem?_eq_getElem _)
  obtain ⟨m', hm', -⟩ := encodeFrom_of_accepted (i := 0) (by omega) hacc m
  rw [hsplit, encodeFrom_append hm', hlen, Nat.zero_add, encodeFrom_cons_of_error he]

/-- TILE.ENCODE with a legal code and a first element that fails. -/
theorem execTileEncode_of_first {c : Byte} {f : TileFormat} {s : State} {k : Nat} {v : Byte} {e : CmdError}
    {r : Response} (hf : TileFormat.ofCode c = some f) (hk : k ≤ 64) (hv : s.din[k]? = some v)
    (hbefore : ∀ (j : Nat) (u : Byte), j < k → s.din[j]? = some u → acceptedValue f u)
    (he : pixelError config f (k % 8) (k / 8) v = some e) (hr : Response.failure e = r) :
    exec (.tileEncode c) s = .next (answered s r) := by
  have herror := encodeError_eq_some_iff.2 (encodeFrom_of_first hk hv hbefore he Memory.zero)
  exact exec_of_failedCheck (i := .tileEncode c) ((formatCheck_of_code hf _ _).trans herror) hr

/-- Accepted elements, encoded onto the zero tile, are its first pixels, and the other pixels are 0 (R197). -/
theorem encodeFrom_zero_getPixel {f : TileFormat} {vs : List Byte} (hlen : vs.length ≤ 64)
    (hacc : ∀ u ∈ vs, acceptedValue f u) : ∃ m, encodeFrom config f 0 Memory.zero vs = .ok m ∧
      ∀ x y, x < 8 → y < 8 → getPixel f m x y = vs.getD (8 * y + x) 0 := by
  obtain ⟨m, hm, hcm⟩ := encodeFrom_of_accepted (i := 0) (by omega) hacc Memory.zero
  rw [List.take_zero, List.nil_append, Nat.zero_add, colormap_zero, List.drop_replicate] at hcm
  refine ⟨m, hm, fun x y hx hy => ?_⟩
  have hpixel := colormap_getElem?_pixel f m hx hy
  rw [hcm] at hpixel
  by_cases hin : 8 * y + x < vs.length
  · rw [List.getElem?_append_left hin] at hpixel
    rw [List.getD_eq_getElem?_getD, hpixel, Option.getD_some]
  · have hin := Nat.le_of_not_lt hin
    rw [List.getElem?_append_right hin] at hpixel
    rw [List.getD_eq_default _ _ hin]
    exact List.eq_of_mem_replicate (List.mem_of_getElem? hpixel)

/-- Settles O50: the first element that fails is below index 64 and fails the value check, or is the 65th, whose row is
8 and fails the bounds check; else the scan accepts. -/
theorem tileEncodeResult : Obligations.TileEncodeResult := by
  refine ⟨fun w h => decode_eq_some_iff.2 (masked_a_iff.2 ⟨h, rfl⟩),
    fun f s hf => exec_of_illegalCode (i := .tileEncode f) rfl hf, fun f fmt s hf => ⟨?_, ?_, ?_⟩⟩
  · intro k n v hk hv hlim hn hbefore
    have he := pixelError_of_refused (x := k % 8) (y := k / 8) (by omega) (by omega) hlim hn
    exact execTileEncode_of_first hf hk.le hv hbefore he (failure_invalidValue v n)
  · intro hlen hbefore
    have he := pixelError_of_coordError (cfg := config) (f := fmt) (v := s.din[64])
      (coordError_of_y (x := 64 % 8) (y := 64 / 8) (by decide) (by decide))
    exact execTileEncode_of_first hf le_rfl (List.getElem?_eq_getElem hlen) hbefore he (failure_outOfBounds 8)
  · intro hlen hacc
    obtain ⟨m, hm, hpixels⟩ := encodeFrom_zero_getPixel hlen hacc
    exact ⟨m, execTileEncode_of_ok hf hm, hpixels⟩

end Sys2Proof.Machine
end
